-- ==== Sys2Proof/Word.lean ====
section
/-! DEFINITION. The word types of the block and the banks of sixteen like things that a 4-bit slot number selects
(spec/00_scope.md R9, spec/30_encoding.md R101). -/

namespace Sys2Proof

/-- Eight bits (00_scope.md R9). -/
abbrev Byte := BitVec 8

/-- A clock value. Held in 64 bits; with CLK_W = 32 the upper half is kept zero by every operation
(00_scope.md R10; log entry 2, DESIGN CHOICE). -/
abbrev Clock := BitVec 64

/-- A slot number, the 4-bit slot field of a header: 0 is the host, 1 to NDRIVES are the drives (00_scope.md glossary). -/
abbrev Slot := BitVec 4

/-- Sixteen like things, one for each value of the slot field (log entry 16, DESIGN CHOICE: the entries that do not
exist on a block of fewer slots are stored and never reached). -/
abbrev Bank (α : Type) := Vector α 16

/-- The entry of slot `p`. -/
def Bank.read {α : Type} (b : Bank α) (p : Slot) : α := b[p.toNat]'p.isLt

/-- The bank with the entry of slot `p` replaced. -/
def Bank.write {α : Type} (b : Bank α) (p : Slot) (x : α) : Bank α := b.set p.toNat x p.isLt

/-- Sixteen equal entries. -/
def Bank.fill {α : Type} (x : α) : Bank α := Vector.replicate 16 x

end Sys2Proof
end

