-- ==== Sys2Proof/Syntax.lean ====
section
/-! DEFINITION. The commands of the block: one constructor of `Instr` for each row of spec/opcode_table.json
(spec/30_encoding.md R104), the command triple they are presented as (R100), and the names their operands range over. -/

namespace Sys2Proof

/-- The sixteen registers of a peripheral chip, in index order (43_peripheral_chip.md R201). -/
inductive ChipReg where
  | pb | pa | ddrb | ddra
  | t1cl | t1ch | t1ll | t1lh
  | t2cl | t2ch | t2ll | t2lh
  | sr | cr | ifr | ier
deriving DecidableEq, Repr

/-- The four control lines of a chip (10_state.md R37). -/
inductive ControlLine where
  | cl1 | cl2 | cl3 | cl4
deriving DecidableEq, Repr

/-- An edge on a control line (43_peripheral_chip.md R240). -/
inductive Edge where
  | fall | rise
deriving DecidableEq, Repr

/-- The two contribution formulas a participant is configured for (10_state.md R29, 42_bus_arbiter.md R175). -/
inductive BusMode where
  | pullOnly | active
deriving DecidableEq, Repr

/-- The DIR field of FAST (30_encoding.md R101). -/
inductive Direction where
  | hostToDrive | driveToHost
deriving DecidableEq, Repr

/-- The two kinds of snapshot block (30_encoding.md R103). -/
inductive BlockKind where
  | pctx | chip
deriving DecidableEq, Repr

/-- The fifteen selectors of the CSR space; selector 15 is reserved and has no name (20_memory.md R72). -/
inductive Csr where
  | err | sctl | jamAddr | sf | localClk | stopClk | lastSync | frac | authClk | bus | partOut
  | tabInt | tabFrac | fDrv | fLoc
deriving DecidableEq, Repr

/-- A command as it is presented: the header word, the two operand values, and the byte string that only SNAPLOAD
consumes (30_encoding.md R100). -/
structure Command where
  header : BitVec 32
  opa : Clock
  opb : BitVec 32
  sdat : List Byte
deriving DecidableEq, Repr

/-- The commands of the block, in the order of spec/opcode_table.json. A constructor holds the operands its format
uses (30_encoding.md R102) and nothing else: an operand a command does not use is not checked and has no effect (R100). -/
inductive Instr where
  | mreset
  | dreset (slot : Slot) (opa : Clock)
  | dhreset (slot : Slot) (opa : Clock)
  | dbgatt (slot : Slot) (opa : Clock)
  | clrerr
  | csrrd (slot : Slot) (sel : Csr) (opb : BitVec 32)
  | snapsave (slot : Slot) (kind : BlockKind) (opa : Clock)
  | snapload (slot : Slot) (kind : BlockKind) (sdat : List Byte)
  | setfdrv (opb : BitVec 32)
  | setfloc (slot : Slot) (opb : BitVec 32)
  | setturbo (slot : Slot) (on : Bool)
  | enable (slot : Slot) (opa : Clock)
  | disable (slot : Slot)
  | catchup (slot : Slot) (opa : Clock)
  | syncall (opa : Clock)
  | idletrap (slot : Slot)
  | greg (slot : Slot)
  | advance (opb : BitVec 32)
  | maybereb (opa : Clock)
  | outchg (slot : Slot) (act : Bool) (imm : Byte) (opa : Clock)
  | resolve
  | setmode (slot : Slot) (mode : BusMode)
  | fastneg (slot : Slot) (on : Bool)
  | fast (slot : Slot) (dir : Direction) (imm : Byte)
  | rdPb (slot : Slot) (opa : Clock)
  | rdPa (slot : Slot) (opa : Clock)
  | rdDdrb (slot : Slot) (opa : Clock)
  | rdDdra (slot : Slot) (opa : Clock)
  | rdT1cl (slot : Slot) (opa : Clock)
  | rdT1ch (slot : Slot) (opa : Clock)
  | rdT1ll (slot : Slot) (opa : Clock)
  | rdT1lh (slot : Slot) (opa : Clock)
  | rdT2cl (slot : Slot) (opa : Clock)
  | rdT2ch (slot : Slot) (opa : Clock)
  | rdT2ll (slot : Slot) (opa : Clock)
  | rdT2lh (slot : Slot) (opa : Clock)
  | rdSr (slot : Slot) (opa : Clock)
  | rdCr (slot : Slot) (opa : Clock)
  | rdIfr (slot : Slot) (opa : Clock)
  | rdIer (slot : Slot) (opa : Clock)
  | wrPb (slot : Slot) (rmw : Bool) (imm : Byte) (opa : Clock)
  | wrPa (slot : Slot) (rmw : Bool) (imm : Byte) (opa : Clock)
  | wrDdrb (slot : Slot) (rmw : Bool) (imm : Byte) (opa : Clock)
  | wrDdra (slot : Slot) (rmw : Bool) (imm : Byte) (opa : Clock)
  | wrT1cl (slot : Slot) (rmw : Bool) (imm : Byte) (opa : Clock)
  | wrT1ch (slot : Slot) (rmw : Bool) (imm : Byte) (opa : Clock)
  | wrT1ll (slot : Slot) (rmw : Bool) (imm : Byte) (opa : Clock)
  | wrT1lh (slot : Slot) (rmw : Bool) (imm : Byte) (opa : Clock)
  | wrT2cl (slot : Slot) (rmw : Bool) (imm : Byte) (opa : Clock)
  | wrT2ch (slot : Slot) (rmw : Bool) (imm : Byte) (opa : Clock)
  | wrT2ll (slot : Slot) (rmw : Bool) (imm : Byte) (opa : Clock)
  | wrT2lh (slot : Slot) (rmw : Bool) (imm : Byte) (opa : Clock)
  | wrSr (slot : Slot) (rmw : Bool) (imm : Byte) (opa : Clock)
  | wrCr (slot : Slot) (rmw : Bool) (imm : Byte) (opa : Clock)
  | wrIfr (slot : Slot) (rmw : Bool) (imm : Byte) (opa : Clock)
  | wrIer (slot : Slot) (rmw : Bool) (imm : Byte) (opa : Clock)
  | signal (slot : Slot) (line : ControlLine) (edge : Edge)
  | pina (slot : Slot) (imm : Byte)
deriving DecidableEq, Repr

end Sys2Proof
end

