-- ==== Sys2Proof/Config.lean ====
section
/-! DEFINITION. What is fixed for one block: its parameters (spec/00_scope.md R6, R7), and the interface of the external
agents with the two oracles the spec leaves free (spec/40_clock_converter.md R141, spec/60_exceptions.md R309). -/

namespace Sys2Proof

/-- The legal values of the parameter CLK_W (00_scope.md R6, 93_implementation_defined.md K4). -/
inductive ClockWidth where
  | w32 | w64
deriving DecidableEq, Repr

/-- CLK_W in bits. -/
def ClockWidth.bits : ClockWidth → Nat
  | .w32 => 32
  | .w64 => 64

/-- CLK_W / 8, the size CB of a clock field in a snapshot block (20_memory.md R80). -/
def ClockWidth.bytes : ClockWidth → Nat
  | .w32 => 4
  | .w64 => 8

/-- The OPEN parameters of 00_scope.md R6. They are arguments of the model: a state carries them and no command changes
them (log entry 1, DESIGN CHOICE). NPART is `ndrives + 1`; the FIXED ones are widths in the types. -/
structure Params where
  /-- CLK_W -/
  clkW : ClockWidth
  /-- HORIZON, the largest index of the conversion table -/
  horizon : Nat
  /-- NDRIVES, the number of drive slots -/
  ndrives : Nat
  /-- TURBO_CAP[s] -/
  turboCap : Bank Bool
  /-- WAKE_GAP -/
  wakeGap : Nat
  /-- K_MAX -/
  kMax : Nat
  /-- MAX_STEP -/
  maxStep : Nat
  /-- HIGH_WATER -/
  highWater : Nat
  /-- REBASE_CHUNK -/
  rebaseChunk : Nat
  /-- ATN_BIT -/
  atnBit : BitVec 3
  /-- F_ACTIVE as the bytes on which it is not the identity, first entry first (log entry 3, DESIGN CHOICE) -/
  fActive : List (Byte × Byte)
  /-- REG_BASE[p] (log entry 17, DESIGN CHOICE for its width) -/
  regBase : Bank (BitVec 16)
  /-- CPU_REGS_LEN -/
  cpuRegsLen : Nat
  /-- LASTOP_LEN -/
  lastopLen : Nat
  /-- INTSTAT_LEN -/
  intstatLen : Nat
  /-- RAM_SIZE[q] -/
  ramSize : Bank Nat
deriving DecidableEq, Repr

/-- The column "reference" of 00_scope.md R6. -/
def Params.reference : Params where
  clkW := .w64
  horizon := 4096
  ndrives := 4
  turboCap := Bank.fill true
  wakeGap := 16777216
  kMax := 8
  maxStep := 16777216
  highWater := 18446744073692774399
  rebaseChunk := 9223372036854775808
  atnBit := 7
  fActive := []
  regBase := Bank.fill 0
  cpuRegsLen := 7
  lastopLen := 1
  intstatLen := 0
  ramSize := Bank.fill 0

/-- The kinds of `CpuReset` an agent can be told (60_exceptions.md R309). -/
inductive ResetKind where
  | machine | soft | hard
deriving DecidableEq, Repr

/-- The opaque fields of a ProcessorContext block, handed over by `CpuSave` and back by `CpuLoad` (20_memory.md R80). -/
structure CpuFields where
  cpuRegs : List Byte
  lastOpcode : List Byte
  intStatus : List Byte
  ram : List Byte
deriving DecidableEq, Repr, Inhabited

/-- Everything the block tells an agent or asks it, the argument of the oracle: an agent's private state is a function
of what has happened to it (log entry 6, DESIGN CHOICE). -/
inductive CpuEvent where
  /-- `CpuStep` was asked; the agent may read its interrupt line (40_clock_converter.md R141) -/
  | asked (irq : Bool)
  /-- an RD word of a body returned this byte -/
  | gotByte (b : Byte)
  /-- `CpuReset` -/
  | wasReset (kind : ResetKind)
  /-- `CpuLoad` -/
  | wasLoaded (fields : CpuFields)
deriving DecidableEq, Repr

/-- The words of an instruction body other than RD: WR, SIGNAL and IDLETRAP, on the agent's own slot and with every
must-be-zero bit zero by construction (30_encoding.md R111). -/
inductive BodyAct where
  | wr (r : ChipReg) (rmw : Bool) (b : Byte)
  | signal (line : ControlLine) (edge : Edge)
  | idletrap
deriving DecidableEq, Repr

/-- A word of a body fixed in advance. -/
inductive BodyWord where
  | rd (r : ChipReg)
  | act (a : BodyAct)
deriving DecidableEq, Repr

/-- A finite instruction body whose next word may depend on the bytes its reads returned (40_clock_converter.md R141). -/
inductive Body where
  | done
  | read (r : ChipReg) (next : Byte → Body)
  | act (a : BodyAct) (next : Body)
deriving Inhabited

/-- One answer of `CpuStep` (40_clock_converter.md R141). -/
inductive CpuAnswer where
  | jam (addr : BitVec 16)
  | instr (ticks : Nat) (body : Body)
deriving Inhabited

/-- An answer fixed in advance, plain data (log entry 6). -/
inductive ScriptAnswer where
  | jam (addr : BitVec 16)
  | instr (ticks : Nat) (body : List BodyWord)
deriving DecidableEq, Repr

/-- FREE VALUE (log entry 6): what the agent of a slot answers next, given all that has happened to it, newest first.
Nothing is assumed of it: "The model must hold for every agent" (40_clock_converter.md R141). -/
opaque Config.cpuStep : Slot → List CpuEvent → CpuAnswer

/-- FREE VALUE (log entry 9): the opaque fields `CpuSave(q)` hands over (44_system_ops.md R266, 93_implementation_defined.md K8). -/
opaque Config.cpuSave : Slot → List CpuEvent → CpuFields

end Sys2Proof
end

