-- ==== Sys2Proof/Machine/State.lean ====
section
/-! DEFINITION. Everything the spec gives the block to remember (spec/10_state.md R20 to R44), as plain data, and its value
after reset. -/

namespace Sys2Proof.Machine

/-- No command of the block traps or stops the machine (60_exceptions.md R303): every condition is a next state, so a
step never faults. Safe. -/
inductive Fault where
deriving DecidableEq, Repr

/-- Why a step has no successor. -/
inductive Refusal where
  /-- raised by `exec` for an instruction that has no meaning yet; safe -/
  | notModelled (mnemonic : String)
  /-- raised by `step` when the state's parameters break a constraint of 00_scope.md R6 or R7: "A model refuses a
  parameter set that breaks one of these"; safe -/
  | illegalParameters
deriving DecidableEq, Repr

/-- One timer of a chip: counter, target-reload latch, counting (10_state.md R34). -/
structure Timer where
  count : BitVec 16
  latch : BitVec 16
  run : Bool
deriving DecidableEq, Repr

/-- One peripheral chip (10_state.md R31 to R37). -/
structure Chip where
  ora : Byte
  orb : Byte
  ddra : Byte
  ddrb : Byte
  /-- bit 0 CL1, 1 CL2, 2 T1, 3 T2, 4 SR (R33) -/
  ifr : BitVec 5
  ier : BitVec 5
  t1 : Timer
  t2 : Timer
  sr : Byte
  srcnt : BitVec 3
  /-- bit 0 T1FR, 1 T2FR, 2 SREN, 3 ACTV (R36) -/
  cr : BitVec 4
  /-- bit i is cl[i+1] (R37) -/
  cl : BitVec 4
deriving DecidableEq, Repr

/-- What the block holds for one participant slot (10_state.md R29, R31, R38, R39). -/
structure Part where
  /-- part_out[p] -/
  out : Byte
  mode : BusMode
  fastneg : Bool
  chip : Chip
  /-- rmw_val[p] -/
  rmwVal : Byte
  /-- pa_in[p] -/
  paIn : Byte
deriving DecidableEq, Repr

/-- What the block holds for one drive slot (10_state.md R22, R24, R26, R28). -/
structure Drive where
  fLocal : BitVec 32
  turbo : Bool
  en : Bool
  sf : BitVec 32
  localClk : Clock
  stopClk : Clock
  lastSync : Clock
  frac : BitVec 16
  jam : Bool
  jamAddr : BitVec 16
  /-- sub_mask[s] -/
  sub : Bool
deriving DecidableEq, Repr

/-- The external agent of a slot as the model holds it: answers and snapshot fields fixed in advance, and all that has
happened to it, newest first (log entries 6 and 9; the model's own fields). -/
structure Agent where
  script : List ScriptAnswer
  image : Option CpuFields
  history : List CpuEvent
deriving DecidableEq, Repr

/-- The state of the block. `params`, `port`, `sdat` and `agents` are the model's own fields (log entries 1, 4, 5, 6). -/
structure State where
  params : Params
  /-- commands presented and not yet taken, the next one first -/
  port : List Command
  /-- the byte string the last SNAPSAVE produced -/
  sdat : List Byte
  fDrive : BitVec 32
  drives : Bank Drive
  parts : Bank Part
  agents : Bank Agent
  authClk : Clock
  bus : Byte
  atn : Bool
  err : BitVec 10
  errSlot : BitVec 4
  /-- RES -/
  res : Clock
deriving DecidableEq, Repr

/-- A timer after power-on and after a chip reset: halted at 0 (10_state.md R44). -/
def Timer.reset : Timer := { count := 0, latch := 0, run := false }

/-- A chip after power-on and after a chip reset (10_state.md R44, 43_peripheral_chip.md R244). -/
def Chip.reset : Chip where
  ora := 0
  orb := 0
  ddra := 0
  ddrb := 0
  ifr := 0
  ier := 0
  t1 := .reset
  t2 := .reset
  sr := 0
  srcnt := 0
  cr := 0
  cl := 0xF

/-- A participant slot after power-on (10_state.md R44). -/
def Part.reset : Part where
  out := 0xFF
  mode := .pullOnly
  fastneg := false
  chip := .reset
  rmwVal := 0
  paIn := 0xFF

/-- A drive slot after power-on (10_state.md R44). -/
def Drive.reset : Drive where
  fLocal := 0
  turbo := false
  en := false
  sf := 0
  localClk := 0
  stopClk := 0
  lastSync := 0
  frac := 0
  jam := false
  jamAddr := 0
  sub := false

/-- An agent to which nothing has happened and about which nothing is fixed (log entry 19, DESIGN CHOICE). -/
def Agent.initial : Agent := { script := [], image := none, history := [] }

/-- The block after power-on (10_state.md R44, 70_reset_and_hazards.md R331), with the reference parameters (log entry 1),
no command presented, and agents about which nothing is fixed (log entry 19). -/
def State.reset : State where
  params := .reference
  port := []
  sdat := []
  fDrive := 0
  drives := .fill .reset
  parts := .fill .reset
  agents := .fill .initial
  authClk := 0
  bus := 0xFF
  atn := true
  err := 0
  errSlot := 0
  res := 0

/-- The drive registers of slot `s`. -/
def State.drive (st : State) (s : Slot) : Drive := st.drives.read s

/-- The participant registers of slot `p`. -/
def State.part (st : State) (p : Slot) : Part := st.parts.read p

/-- The chip of slot `p`. -/
def State.chip (st : State) (p : Slot) : Chip := (st.part p).chip

/-- The agent of slot `q`. -/
def State.agent (st : State) (q : Slot) : Agent := st.agents.read q

/-- The drive registers of slot `s` changed by `f`. -/
def State.updDrive (st : State) (s : Slot) (f : Drive → Drive) : State :=
  { st with drives := st.drives.write s (f (st.drive s)) }

/-- The participant registers of slot `p` changed by `f`. -/
def State.updPart (st : State) (p : Slot) (f : Part → Part) : State :=
  { st with parts := st.parts.write p (f (st.part p)) }

/-- The chip of slot `p` changed by `f`. -/
def State.updChip (st : State) (p : Slot) (f : Chip → Chip) : State :=
  st.updPart p (fun x => { x with chip := f x.chip })

/-- The agent of slot `q` changed by `f`. -/
def State.updAgent (st : State) (q : Slot) (f : Agent → Agent) : State :=
  { st with agents := st.agents.write q (f (st.agent q)) }

end Sys2Proof.Machine
end

