-- ==== Sys2Proof/Machine/Flags.lean ====
section
/-! DEFINITION. The flags of the block: the conditions and their bits of `err` (spec/60_exceptions.md R290, R291), and the
interrupt flags and interrupt line of a chip (spec/43_peripheral_chip.md R203, spec/60_exceptions.md R300). -/

namespace Sys2Proof.Machine

/-- The conditions a command can raise (60_exceptions.md R291). ClockOverflowRisk, code 2, is never recorded (R293). -/
inductive Condition where
  | processorJammed
  | busParticipantMisconfigured
  | snapshotVersionUnsupported
  | slotOutOfRange
  | configError
  | illegalCommand
  | fastNotNegotiated
  | snapshotMalformed
deriving DecidableEq, Repr

/-- The code of a condition, its bit number in `err` (60_exceptions.md R291). -/
def Condition.code : Condition → Nat
  | .processorJammed => 1
  | .busParticipantMisconfigured => 3
  | .snapshotVersionUnsupported => 4
  | .slotOutOfRange => 5
  | .configError => 6
  | .illegalCommand => 7
  | .fastNotNegotiated => 8
  | .snapshotMalformed => 9

/-- SlotOutOfRange and IllegalCommand are fatal (60_exceptions.md R291, R297). -/
def Condition.isFatal : Condition → Bool
  | .slotOutOfRange | .illegalCommand => true
  | .processorJammed | .busParticipantMisconfigured | .snapshotVersionUnsupported | .configError
  | .fastNotNegotiated | .snapshotMalformed => false

/-- The bits of `err` a condition sets: its own and, when fatal, bit 0 (60_exceptions.md R290). -/
def Condition.bits (c : Condition) : BitVec 10 :=
  BitVec.twoPow 10 c.code ||| (if c.isFatal then 1 else 0)

/-- The fatal flag `err[0]` (10_state.md R40). -/
def State.fatal (st : State) : Bool := st.err.getLsbD 0

/-- The condition bit `c` of `err` is set. -/
def State.errBit (st : State) (c : Condition) : Bool := st.err.getLsbD c.code

/-- The five interrupt sources in the bit order of `ifr` and `ier` (10_state.md R33). -/
inductive IrqSource where
  | cl1 | cl2 | t1 | t2 | sr
deriving DecidableEq, Repr

/-- The bit of a source (10_state.md R33). -/
def IrqSource.bit : IrqSource → BitVec 5
  | .cl1 => 0b00001
  | .cl2 => 0b00010
  | .t1 => 0b00100
  | .t2 => 0b01000
  | .sr => 0b10000

/-- The flag of a source set; a flag already set stays set (43_peripheral_chip.md R240). -/
def Chip.setFlag (c : Chip) (f : IrqSource) : Chip := { c with ifr := c.ifr ||| f.bit }

/-- The flag of a source. -/
def Chip.flag (c : Chip) (f : IrqSource) : Bool := c.ifr &&& f.bit != 0

/-- `irq[p]`, the interrupt line toward the chip's owner (43_peripheral_chip.md R203). -/
def Chip.irq (c : Chip) : Bool := c.ifr &&& c.ier != 0

/-- cr bit 0, T1FR: timer 1 free-runs (10_state.md R36). -/
def Chip.t1FreeRun (c : Chip) : Bool := c.cr.getLsbD 0
/-- cr bit 1, T2FR: timer 2 free-runs (10_state.md R36). -/
def Chip.t2FreeRun (c : Chip) : Bool := c.cr.getLsbD 1
/-- cr bit 2, SREN: the shift register shifts (10_state.md R36). -/
def Chip.shiftEnabled (c : Chip) : Bool := c.cr.getLsbD 2
/-- cr bit 3, ACTV: port B reports that it drives actively (10_state.md R36). -/
def Chip.drivesActively (c : Chip) : Bool := c.cr.getLsbD 3

end Sys2Proof.Machine
end

