-- ==== Sys2Proof/Machine/ChipCore.lean ====
section
/-! DEFINITION. What happens inside one peripheral chip (spec/43_peripheral_chip.md): timers (R204, R205), register values
and stores (R208 to R239), control-line edges (R240), the fast transfer's effect (spec/42_bus_arbiter.md R181). -/

namespace Sys2Proof.Machine

/-- One timer after `n` ticks and whether it expired, in the closed form of 43_peripheral_chip.md R205. -/
def Timer.tick (t : Timer) (freeRun : Bool) (n : Nat) : Timer × Bool :=
  if t.run then
    if n ≤ t.count.toNat then ({ t with count := BitVec.ofNat 16 (t.count.toNat - n) }, false)
    else if freeRun then
      let m := n - (t.count.toNat + 1)
      ({ t with count := BitVec.ofNat 16 (t.latch.toNat - m % (t.latch.toNat + 1)) }, true)
    else ({ t with count := 0, run := false }, true)
  else (t, false)

/-- `ChipTick(p, n)` on the chip (43_peripheral_chip.md R204): both timers, each expiry setting its flag. -/
def Chip.tick (c : Chip) (n : Nat) : Chip :=
  let r1 := c.t1.tick c.t1FreeRun n
  let r2 := c.t2.tick c.t2FreeRun n
  { c with
    t1 := r1.1
    t2 := r2.1
    ifr := c.ifr ||| (if r1.2 then IrqSource.t1.bit else 0) ||| (if r2.2 then IrqSource.t2.bit else 0) }

/-- `TicksToExpiry(p)`; none stands for infinite (43_peripheral_chip.md R205). -/
def Chip.ticksToExpiry (c : Chip) : Option Nat :=
  match c.t1.run, c.t2.run with
  | true, true => some (min (c.t1.count.toNat + 1) (c.t2.count.toNat + 1))
  | true, false => some (c.t1.count.toNat + 1)
  | false, true => some (c.t2.count.toNat + 1)
  | false, false => none

/-- A port as seen from outside: an output bit drives its latch, an input bit is released and reads 1
(43_peripheral_chip.md R202). -/
def portLevel (latch ddr : Byte) : Byte := (latch &&& ddr) ||| ~~~ddr

/-- `EffOut(p)`, port B as a bus contribution (43_peripheral_chip.md R202). -/
def Chip.effOut (c : Chip) : Byte := portLevel c.orb c.ddrb

/-- The level port A presents to the platform: an output of the block that nothing in it reads (43_peripheral_chip.md R202). -/
def Chip.portAOut (c : Chip) : Byte := portLevel c.ora c.ddra

/-- What RD.IFR returns: bit 7 is irq, bits 6:5 are 0 (43_peripheral_chip.md R236). -/
def Chip.ifrByte (c : Chip) : Byte := BitVec.ofBool c.irq ++ (0 : BitVec 2) ++ c.ifr

/-- The value a read of register `r` returns, given the resolved byte and the port A input (the column "rd" of
43_peripheral_chip.md R201; R208 to R238). -/
def Chip.readValue (c : Chip) (r : ChipReg) (bus paIn : Byte) : Byte :=
  match r with
  | .pb => (c.orb &&& c.ddrb) ||| (bus &&& ~~~c.ddrb)
  | .pa => (c.ora &&& c.ddra) ||| (paIn &&& ~~~c.ddra)
  | .ddrb => c.ddrb
  | .ddra => c.ddra
  | .t1cl => c.t1.count.extractLsb' 0 8
  | .t1ch => c.t1.count.extractLsb' 8 8
  | .t1ll => c.t1.latch.extractLsb' 0 8
  | .t1lh => c.t1.latch.extractLsb' 8 8
  | .t2cl => c.t2.count.extractLsb' 0 8
  | .t2ch => c.t2.count.extractLsb' 8 8
  | .t2ll => c.t2.latch.extractLsb' 0 8
  | .t2lh => c.t2.latch.extractLsb' 8 8
  | .sr => c.sr
  | .cr => c.cl ++ c.cr
  | .ifr => c.ifrByte
  | .ier => (0 : BitVec 3) ++ c.ier

/-- The side effect a read has on the chip: RD.IFR clears the two edge flags (43_peripheral_chip.md R236); no other read
changes the chip (20_memory.md R79). -/
def Chip.afterRead (c : Chip) (r : ChipReg) : Chip :=
  match r with
  | .ifr => { c with ifr := c.ifr &&& ~~~(IrqSource.cl1.bit ||| IrqSource.cl2.bit) }
  | .pb | .pa | .ddrb | .ddra | .t1cl | .t1ch | .t1ll | .t1lh | .t2cl | .t2ch | .t2ll | .t2lh | .sr | .cr | .ier => c

/-- The latch with its low byte replaced (43_peripheral_chip.md R217, R221). -/
def Timer.setLatchLow (t : Timer) (x : Byte) : Timer := { t with latch := t.latch.extractLsb' 8 8 ++ x }

/-- The latch with its high byte replaced (43_peripheral_chip.md R223). -/
def Timer.setLatchHigh (t : Timer) (x : Byte) : Timer := { t with latch := x ++ t.latch.extractLsb' 0 8 }

/-- The counter loaded from the latch and the timer started (43_peripheral_chip.md R219). -/
def Timer.start (t : Timer) : Timer := { t with count := t.latch, run := true }

/-- What storing byte `x` to register `r` does to the chip (the column "wr" of 43_peripheral_chip.md R201; R209 to R239).
The arbiter is notified outside, by `storeOne`. -/
def Chip.store (c : Chip) (r : ChipReg) (x : Byte) : Chip :=
  match r with
  | .pb => { c with orb := x }
  | .pa => { c with ora := x }
  | .ddrb => { c with ddrb := x }
  | .ddra => { c with ddra := x }
  | .t1cl => { c with t1 := c.t1.setLatchLow x }
  | .t1ch => { c with t1 := (c.t1.setLatchHigh x).start }
  | .t1ll => { c with t1 := c.t1.setLatchLow x }
  | .t1lh => { c with t1 := c.t1.setLatchHigh x }
  | .t2cl => { c with t2 := c.t2.setLatchLow x }
  | .t2ch => { c with t2 := (c.t2.setLatchHigh x).start }
  | .t2ll => { c with t2 := c.t2.setLatchLow x }
  | .t2lh => { c with t2 := c.t2.setLatchHigh x }
  | .sr => { c with sr := x, srcnt := 0 }
  | .cr => { c with cr := x.extractLsb' 0 4 }
  | .ifr => { c with ifr := c.ifr &&& ~~~(x.extractLsb' 0 5) }
  | .ier => { c with ier := x.extractLsb' 0 5 }

/-- A store to this register notifies the arbiter: PB and DDRB (43_peripheral_chip.md R209, R213; 42_bus_arbiter.md R182). -/
def notifiesArbiter : ChipReg → Bool
  | .pb | .ddrb => true
  | .pa | .ddra | .t1cl | .t1ch | .t1ll | .t1lh | .t2cl | .t2ch | .t2ll | .t2lh | .sr | .cr | .ifr | .ier => false

/-- The mask of a control line in `cl`. -/
def lineBit : ControlLine → BitVec 4
  | .cl1 => 0b0001
  | .cl2 => 0b0010
  | .cl3 => 0b0100
  | .cl4 => 0b1000

/-- The latched level of a control line (10_state.md R37). -/
def Chip.level (c : Chip) (l : ControlLine) : Bool := c.cl &&& lineBit l != 0

/-- A control line latched at a level. -/
def Chip.setLevel (c : Chip) (l : ControlLine) (high : Bool) : Chip :=
  { c with cl := if high then c.cl ||| lineBit l else c.cl &&& ~~~lineBit l }

/-- The level an edge leaves (43_peripheral_chip.md R240). -/
def edgeLevel : Edge → Bool
  | .fall => false
  | .rise => true

/-- One bit shifted in from line 4; the eighth one sets the SR flag (43_peripheral_chip.md R240). -/
def Chip.shiftIn (c : Chip) : Chip :=
  let c1 := { c with
    sr := (c.sr <<< (1 : Nat)) ||| (if c.level .cl4 then 1 else 0)
    srcnt := c.srcnt + 1 }
  if c1.srcnt = 0 then c1.setFlag .sr else c1

/-- `ChipSignal(p, line, e)` on the chip (43_peripheral_chip.md R240). -/
def Chip.signal (c : Chip) (line : ControlLine) (e : Edge) : Chip :=
  let c1 := c.setLevel line (edgeLevel e)
  match line with
  | .cl1 => c1.setFlag .cl1
  | .cl2 => c1.setFlag .cl2
  | .cl3 => if e = .rise ∧ c.shiftEnabled then c1.shiftIn else c1
  | .cl4 => c1

/-- `ChipFast(t, byte)` on the target chip (42_bus_arbiter.md R181). -/
def Chip.fast (c : Chip) (b : Byte) : Chip :=
  let c1 := if c.shiftEnabled then { c with sr := b }.setFlag .sr else c
  (c1.setLevel .cl3 true).setLevel .cl4 (b.getLsbD 0)

end Sys2Proof.Machine
end

