-- ==== Sys2Proof/Machine/Operands.lean ====
section
/-! DEFINITION. Operand assembly and the arithmetic that depends on the parameters: legality of a parameter set
(spec/00_scope.md R6, R7), slot and index ranges (spec/20_memory.md R72 to R74), clock arithmetic (spec/00_scope.md R10),
register addresses (spec/20_memory.md R71), byte order (spec/20_memory.md R76). -/

namespace Sys2Proof

/-- The parameter set meets the ranges of 00_scope.md R6 and the constraints of R7. -/
def Params.legal (P : Params) : Bool :=
  decide (1 ≤ P.horizon) && decide (P.horizon < 2 ^ 16)
  && decide (1 ≤ P.ndrives) && decide (P.ndrives ≤ 15)
  && decide (0 < P.wakeGap) && decide (P.wakeGap < 2 ^ (P.clkW.bits - 1))
  && decide (1 ≤ P.kMax)
  && decide (P.highWater + P.maxStep < 2 ^ P.clkW.bits)
  && decide (0 < P.rebaseChunk) && decide (P.rebaseChunk ≤ P.highWater)
  && decide (P.horizon * (2 ^ 32 - 1) < 2 ^ (P.clkW.bits + 16))

/-- `p` is a participant slot, 0 to NDRIVES (20_memory.md R74). -/
def Params.isPart (P : Params) (p : Slot) : Bool := decide (p.toNat ≤ P.ndrives)

/-- `s` is a drive slot, 1 to NDRIVES (20_memory.md R74). -/
def Params.isDrive (P : Params) (s : Slot) : Bool := decide (1 ≤ s.toNat) && decide (s.toNat ≤ P.ndrives)

/-- Every value of a slot field, ascending. -/
def allSlots : List Slot := [0, 1, 2, 3, 4, 5, 6, 7, 8, 9, 10, 11, 12, 13, 14, 15]

/-- The participant slots in ascending order. -/
def Params.participants (P : Params) : List Slot := allSlots.filter P.isPart

/-- The drive slots in ascending order. -/
def Params.driveSlots (P : Params) : List Slot := allSlots.filter P.isDrive

/-- A value reduced modulo 2^CLK_W (00_scope.md R10). -/
def Params.wrap (P : Params) (c : Clock) : Clock :=
  match P.clkW with
  | .w32 => c &&& 0xFFFFFFFF
  | .w64 => c

/-- `a +c b` (00_scope.md R10). -/
def Params.addClk (P : Params) (a b : Clock) : Clock := P.wrap (a + b)

/-- `a -c b` (00_scope.md R10). -/
def Params.subClk (P : Params) (a b : Clock) : Clock := P.wrap (a - b)

/-- `sdiff(a, b)`, the signed difference of two clock values (00_scope.md R10). -/
def Params.sdiff (P : Params) (a b : Clock) : Int :=
  match P.clkW with
  | .w32 => ((a - b).setWidth 32).toInt
  | .w64 => (a - b).toInt

/-- A clock operand fits the CLK_W-bit port (30_encoding.md R100). -/
def Params.clockFits (P : Params) (c : Clock) : Bool := decide (c.toNat < 2 ^ P.clkW.bits)

/-- F_ACTIVE (42_bus_arbiter.md R175; log entry 3). -/
def Params.activeFormula (P : Params) (b : Byte) : Byte := (P.fActive.lookup b).getD b

/-- The attention bit of a bus byte (42_bus_arbiter.md R176). -/
def Params.attention (P : Params) (b : Byte) : Bool := b.getLsbD P.atnBit.toNat

/-- The ticks of an instruction, 1 to K_MAX: the oracle answers no other number (40_clock_converter.md R141; log entry 7). -/
def Params.legalTicks (P : Params) (k : Nat) : Nat := max 1 (min k P.kMax)

/-- The register index an owner's access at address `a` reaches: `(a - REG_BASE[p]) mod 16` (20_memory.md R71). -/
def Params.regIndex (P : Params) (p : Slot) (a : BitVec 16) : BitVec 4 := (a - P.regBase.read p).setWidth 4

/-- The column "legal slot" of 20_memory.md R72. -/
def Csr.legalSlot (P : Params) (slot : Slot) : Csr → Bool
  | .err | .authClk | .bus | .fDrv => slot == 0
  | .sctl | .partOut => P.isPart slot
  | .jamAddr | .sf | .localClk | .stopClk | .lastSync | .frac | .tabInt | .tabFrac | .fLoc => P.isDrive slot

/-- The table selectors take an index 0 to HORIZON (20_memory.md R72, R73; 30_encoding.md R105 step 4). -/
def Csr.legalIndex (P : Params) (idx : BitVec 32) : Csr → Bool
  | .tabInt | .tabFrac => decide (idx.toNat ≤ P.horizon)
  | .err | .sctl | .jamAddr | .sf | .localClk | .stopClk | .lastSync | .frac | .authClk | .bus | .partOut
  | .fDrv | .fLoc => true

/-- The `n` low bytes of `x`, least significant first (20_memory.md R76). -/
def leBytes : Nat → Nat → List Byte
  | 0, _ => []
  | n + 1, x => BitVec.ofNat 8 x :: leBytes n (x / 256)

/-- The number a byte string spells, least significant byte first (20_memory.md R76). -/
def leNat : List Byte → Nat
  | [] => 0
  | b :: bs => b.toNat + 256 * leNat bs

/-- The `len` bytes of a string from an offset on. -/
def bytesAt (off len : Nat) (bs : List Byte) : List Byte := (bs.drop off).take len

/-- The byte of a string at an offset. -/
def byteAt (off : Nat) (bs : List Byte) : Byte := bs.getD off 0

/-- A byte string brought to the length the parameters fix for an opaque field (00_scope.md R6; log entry 9). -/
def fitLength (n : Nat) (bs : List Byte) : List Byte := (bs ++ List.replicate n 0).take n

end Sys2Proof
end

