-- ==== Sys2Proof/Machine/Ops.lean ====
section
/-! DEFINITION. The named operations every meaning is built from: raising a condition and entering the fatal state
(spec/60_exceptions.md R290, R297), resolving the bus (spec/42_bus_arbiter.md R175, R176), the external agent
(spec/40_clock_converter.md R141, R142), catch-up and what nests inside it (R137 to R145), register accesses with their
effects outside the chip (spec/43_peripheral_chip.md R206, R207), resets (R244, spec/44_system_ops.md R260, R261). -/

namespace Sys2Proof.Machine

/-! Conditions and the two kinds of end a command has. -/

/-- `raise C(slot)`: the sticky bits and `err_slot`, and nothing else (60_exceptions.md R290). For a fatal condition this
is the whole of what the command does (R297). -/
def State.raise (st : State) (c : Condition) (slot : Slot) : State :=
  { st with err := st.err ||| c.bits, errSlot := slot }

/-- A command as the block performs it: in the fatal state it is ignored (60_exceptions.md R297), else it has its effect. -/
def command (st : State) (effect : State → State) : Host.Outcome State Fault Refusal :=
  if st.fatal then .next st else .next (effect st)

/-- A command for a slot: outside its range SlotOutOfRange is raised, before any effect (20_memory.md R74,
30_encoding.md R105 step 5). -/
def slotCommand (st : State) (inRange : Bool) (slot : Slot) (effect : State → State) :
    Host.Outcome State Fault Refusal :=
  command st (fun s => if inRange then effect s else s.raise .slotOutOfRange slot)

/-- A drive-only command allows slots 1 to NDRIVES. -/
def driveCommand (st : State) (s : Slot) (effect : State → State) : Host.Outcome State Fault Refusal :=
  slotCommand st (st.params.isDrive s) s effect

/-- A participant command allows slots 0 to NDRIVES. -/
def partCommand (st : State) (p : Slot) (effect : State → State) : Host.Outcome State Fault Refusal :=
  slotCommand st (st.params.isPart p) p effect

/-- The clock operand as the CLK_W-bit port presents it (30_encoding.md R100; log entry 2). -/
def State.clock (st : State) (opa : Clock) : Clock := st.params.wrap opa

/-- `RES <- v`, zero-extended, or cut to CLK_W bits (30_encoding.md R100, 20_memory.md R72). -/
def State.setRes (st : State) (v : Nat) : State := { st with res := st.params.wrap (BitVec.ofNat 64 v) }

/-! The bus. -/

/-- `Contrib(p)` (42_bus_arbiter.md R175). -/
def contrib (P : Params) (x : Part) : Byte :=
  match x.mode with
  | .pullOnly => x.out
  | .active => P.activeFormula x.out

/-- Slot `p` is attached: the host always, a drive when enabled (42_bus_arbiter.md opening, 10_state.md R24). -/
def State.attached (st : State) (p : Slot) : Bool := p == 0 || (st.drive p).en

/-- The attached participants in ascending order. -/
def State.attachedSlots (st : State) : List Slot := st.params.participants.filter st.attached

/-- The AND of the contributions of all attached participants (10_state.md R30). -/
def State.wiredAnd (st : State) : Byte :=
  st.attachedSlots.foldl (fun acc p => acc &&& contrib st.params (st.part p)) 0xFF

/-- One edge on control line 1 of every attached chip (42_bus_arbiter.md R176). -/
def State.deliverEdge (st : State) (e : Edge) : State :=
  st.attachedSlots.foldl (fun s p => s.updChip p (fun c => c.signal .cl1 e)) st

/-- `Resolve()` (42_bus_arbiter.md R176). -/
def State.resolve (st : State) : State :=
  let new := st.wiredAnd
  let level := st.params.attention new
  let s1 := { st with bus := new }
  if level = st.atn then s1
  else { s1 with atn := level }.deliverEdge (if level then .rise else .fall)

/-- The recomputation of a snapshot load, without edges (44_system_ops.md R267). -/
def State.resolveSilently (st : State) : State :=
  { st with bus := st.wiredAnd, atn := st.params.attention st.wiredAnd }

/-! Chips. -/

/-- `ChipTick(p, n)` (43_peripheral_chip.md R204). -/
def State.chipTick (st : State) (p : Slot) (n : Nat) : State := st.updChip p (fun c => c.tick n)

/-- `ChipSignal(p, line, e)` (43_peripheral_chip.md R240). -/
def State.chipSignal (st : State) (p : Slot) (line : ControlLine) (e : Edge) : State :=
  st.updChip p (fun c => c.signal line e)

/-- `ChipReset(p)` (43_peripheral_chip.md R244). -/
def State.chipReset (st : State) (p : Slot) : State :=
  st.updPart p (fun x => { x with chip := .reset, rmwVal := 0 })

/-! The external agent. -/

/-- The agent of slot `q` is told or asked something (60_exceptions.md R309; log entries 6, 10). -/
def State.tell (st : State) (q : Slot) (e : CpuEvent) : State :=
  st.updAgent q (fun a => { a with history := e :: a.history })

/-- A body fixed in advance, whatever its reads return. -/
def bodyOfWords : List BodyWord → Body
  | [] => .done
  | .rd r :: ws => .read r (fun _ => bodyOfWords ws)
  | .act a :: ws => .act a (bodyOfWords ws)

/-- An answer fixed in advance. -/
def scriptedAnswer : ScriptAnswer → CpuAnswer
  | .jam addr => .jam addr
  | .instr k ws => .instr k (bodyOfWords ws)

/-- `CpuStep(s)`: the agent is asked, seeing its interrupt line; answers fixed in advance come first, then the oracle's
(40_clock_converter.md R141; log entry 6). -/
def State.cpuStep (st : State) (s : Slot) : CpuAnswer × State :=
  let asked := st.tell s (.asked (st.chip s).irq)
  match (asked.agent s).script with
  | [] => (Config.cpuStep s (asked.agent s).history, asked)
  | a :: rest => (scriptedAnswer a, asked.updAgent s (fun x => { x with script := rest }))

/-- The opaque fields `CpuSave(q)` hands over, of the lengths of 00_scope.md R6 (44_system_ops.md R266; log entry 9). They are a
function of the agent's past, which what happens to an agent outside the block's commands does not enter: what the primary
processor (slot 0) does between commands, and what a debugger does to a drive's processor after DBGATT (44_system_ops.md R263)
(log entry 22, DESIGN CHOICE). -/
def State.cpuSave (st : State) (q : Slot) : CpuFields :=
  let f := (st.agent q).image.getD (Config.cpuSave q (st.agent q).history)
  { cpuRegs := fitLength st.params.cpuRegsLen f.cpuRegs
    lastOpcode := fitLength st.params.lastopLen f.lastOpcode
    intStatus := fitLength st.params.intstatLen f.intStatus
    ram := fitLength (st.params.ramSize.read q) f.ram }

/-! Nested work. `CatchUp` is the catch-up procedure one nesting level down; `catchUp` ties the knot below. -/

/-- The type of `CatchUp(s, target)` as an operation other operations call. -/
abbrev CatchUp := Slot → Clock → State → State

/-- `CatchAll(target)` (40_clock_converter.md R140). -/
def catchAll (catchIt : CatchUp) (target : Clock) (st : State) : State :=
  st.params.driveSlots.foldl (fun s d => catchIt d target s) st

/-- `CatchAllExcept(x, target)` (40_clock_converter.md R140). -/
def catchAllExcept (catchIt : CatchUp) (x : Slot) (target : Clock) (st : State) : State :=
  (st.params.driveSlots.filter (fun d => d != x)).foldl (fun s d => catchIt d target s) st

/-- `OutChg(p, byte, act, clk)` (42_bus_arbiter.md R177). -/
def outChg (catchIt : CatchUp) (p : Slot) (byte : Byte) (act : Bool) (clk : Clock) (st : State) : State :=
  let s1 := catchAllExcept catchIt p clk st
  let s2 := if act = true ∧ (s1.part p).mode = .pullOnly then s1.raise .busParticipantMisconfigured p else s1
  (s2.updPart p (fun x => { x with out := byte })).resolve

/-- `ChipRead(p, r, clk)`: the byte and the state after (43_peripheral_chip.md R206, R208). -/
def chipRead (catchIt : CatchUp) (p : Slot) (r : ChipReg) (clk : Clock) (st : State) : Byte × State :=
  let s1 := if p = 0 ∧ r = .pb then (catchAll catchIt clk st).resolve else st
  let v := (s1.chip p).readValue r s1.bus (s1.part p).paIn
  (v, s1.updPart p (fun x => { x with chip := x.chip.afterRead r, rmwVal := v }))

/-- `StoreOne(p, r, x, clk)` (43_peripheral_chip.md R207, R209 to R239). The byte and the ACTV bit the arbiter is notified
with are those right after the store (log entry 20, DEDUCED). -/
def storeOne (catchIt : CatchUp) (p : Slot) (r : ChipReg) (x : Byte) (clk : Clock) (st : State) : State :=
  let s1 := st.updChip p (fun c => c.store r x)
  if notifiesArbiter r then outChg catchIt p (s1.chip p).effOut (s1.chip p).drivesActively clk s1 else s1

/-- `ChipStore(p, r, b, rmw, clk)`: the write phase of a read-modify-write presents the previously read byte first
(43_peripheral_chip.md R207). -/
def chipStore (catchIt : CatchUp) (p : Slot) (r : ChipReg) (b : Byte) (rmw : Bool) (clk : Clock) (st : State) : State :=
  let s1 := if rmw then storeOne catchIt p r (st.part p).rmwVal clk st else st
  storeOne catchIt p r b clk s1

/-- `run[s]`: enabled, not jammed, and the local clock earlier than the stop value (10_state.md R27). -/
def State.running (st : State) (s : Slot) : Bool :=
  (st.drive s).en && !(st.drive s).jam && decide (0 < st.params.sdiff (st.drive s).stopClk (st.drive s).localClk)

/-- IDLETRAP: local time passes to the next timer expiry or to the stop value (40_clock_converter.md R144). -/
def idleTrap (s : Slot) (st : State) : State :=
  if st.running s then
    let room := (st.params.sdiff (st.drive s).stopClk (st.drive s).localClk).toNat
    let n := match (st.chip s).ticksToExpiry with
      | some t => min t room
      | none => room
    (st.updDrive s (fun d => { d with localClk := st.params.addClk d.localClk (BitVec.ofNat 64 n) })).chipTick s n
  else st

/-- One body word that is no read, on the agent's own slot, with `last_sync[s]` as its clock (30_encoding.md R111). -/
def bodyAct (catchIt : CatchUp) (s : Slot) (a : BodyAct) (st : State) : State :=
  match a with
  | .wr r rmw b => chipStore catchIt s r b rmw (st.drive s).lastSync st
  | .signal line e => st.chipSignal s line e
  | .idletrap => idleTrap s st

/-- The accesses of an instruction body in order; the agent is given each byte it reads before it chooses the next word
(40_clock_converter.md R141, R142). -/
def runBody (catchIt : CatchUp) (s : Slot) : Body → State → State
  | .done, st => st
  | .read r next, st =>
    let got := chipRead catchIt s r (st.drive s).lastSync st
    runBody catchIt s (next got.1) (got.2.tell s (.gotByte got.1))
  | .act a next, st => runBody catchIt s next (bodyAct catchIt s a st)

/-- `ExecInstr(s)`: a jam, or the ticks and then the accesses of one instruction (40_clock_converter.md R142, R143). -/
def execInstr (catchIt : CatchUp) (s : Slot) (st : State) : State :=
  let asked := st.cpuStep s
  match asked.1 with
  | .jam addr =>
    (asked.2.updDrive s (fun d => { d with jam := true, jamAddr := addr })).raise .processorJammed s
  | .instr ticks body =>
    let k := st.params.legalTicks ticks
    let s1 := asked.2.updDrive s (fun d => { d with localClk := st.params.addClk d.localClk (BitVec.ofNat 64 k) })
    runBody catchIt s body (s1.chipTick s k)

/-- `Run(s)` for at most `fuel` instructions (40_clock_converter.md R139). -/
def run (catchIt : CatchUp) (s : Slot) : Nat → State → State
  | 0, st => st
  | fuel + 1, st => if st.running s then run catchIt s fuel (execInstr catchIt s st) else st

/-- The conversion of `delta` driving ticks: the new stop value and carry, in the closed form of
40_clock_converter.md R138. -/
def convert (P : Params) (stop : Clock) (frac : BitVec 16) (sf : BitVec 32) (delta : Nat) : Clock × BitVec 16 :=
  let T := stop.toNat * 65536 + frac.toNat + delta * sf.toNat
  (P.wrap (BitVec.ofNat 64 (T / 65536)), BitVec.ofNat 16 T)

/-- How many instructions one `Run(s)` lets start: one for every clock value, more than a run that ends needs when no
instruction passes half the clock's range (40_clock_converter.md R139; log entry 13, DEDUCED). -/
def runLimit (P : Params) : Nat := 2 ^ P.clkW.bits

/-- `CatchUp(s, target)` over the catch-up of one level down (40_clock_converter.md R137). -/
def catchUpWith (catchIt : CatchUp) : CatchUp := fun s target st =>
  let d := st.drive s
  if d.en && !d.jam then
    let delta := st.params.sdiff target d.lastSync
    if 0 < delta then
      let c := convert st.params d.stopClk d.frac d.sf delta.toNat
      let s1 := st.updDrive s (fun d => { d with lastSync := target, stopClk := c.1, frac := c.2 })
      run catchIt s (runLimit st.params) s1
    else st
  else st

/-- The catch-up with at most `depth` levels of nesting. -/
def catchUpTo : Nat → CatchUp
  | 0 => fun _ _ st => st
  | depth + 1 => catchUpWith (catchUpTo depth)

/-- "The nesting depth is at most NDRIVES" (40_clock_converter.md R145), and NDRIVES is at most 15 (log entry 12). -/
def nestLimit : Nat := 16

/-- `CatchUp(s, target)` (40_clock_converter.md R137). -/
def catchUp : CatchUp := catchUpTo nestLimit

/-! Resets. -/

/-- `CpuReset(s, kind)` told to every drive slot (44_system_ops.md R260). -/
def State.tellAllReset (st : State) : State :=
  st.params.driveSlots.foldl (fun s d => s.tell d (.wasReset .machine)) st

/-- Every state element of the spec at its power-on value; the agents are told (44_system_ops.md R260, 10_state.md R44).
The parameters, the commands still waiting and the last SDAT are no state elements of the spec and stay (log entry 5). -/
def State.machineReset (st : State) : State :=
  { st with
    fDrive := 0
    drives := .fill .reset
    parts := .fill .reset
    authClk := 0
    bus := 0xFF
    atn := true
    err := 0
    errSlot := 0
    res := 0 }.tellAllReset

/-- The drive reset of DRESET and DHRESET (44_system_ops.md R261, R262). -/
def driveReset (kind : ResetKind) (s : Slot) (now : Clock) (st : State) : State :=
  let s1 := st.updDrive s (fun d =>
    { d with jam := false, jamAddr := 0, stopClk := d.localClk, frac := 0, lastSync := now })
  let s2 := (s1.chipReset s).updPart s (fun x => { x with out := 0xFF })
  (s2.tell s (.wasReset kind)).resolve

end Sys2Proof.Machine
end

