-- ==== Sys2Proof/Machine/Arbiter.lean ====
section
/-! DEFINITION. The bus arbiter's commands and the fast side-channel (spec/42_bus_arbiter.md R177 to R181). -/

namespace Sys2Proof.Machine

/-- OUTCHG (42_bus_arbiter.md R177). -/
def execOutchg (slot : Slot) (act : Bool) (imm : Byte) (opa : Clock) (st : State) : Host.Outcome State Fault Refusal :=
  partCommand st slot (fun st => outChg catchUp slot imm act (st.clock opa) st)

/-- RESOLVE (42_bus_arbiter.md R178). -/
def execResolve (st : State) : Host.Outcome State Fault Refusal :=
  command st (fun st => st.resolve)

/-- SETMODE (42_bus_arbiter.md R179). -/
def execSetmode (slot : Slot) (mode : BusMode) (st : State) : Host.Outcome State Fault Refusal :=
  partCommand st slot (fun st => (st.updPart slot (fun x => { x with mode := mode })).resolve)

/-- FASTNEG (42_bus_arbiter.md R180). -/
def execFastneg (slot : Slot) (on : Bool) (st : State) : Host.Outcome State Fault Refusal :=
  partCommand st slot (fun st => st.updPart slot (fun x => { x with fastneg := on }))

/-- The target of a fast transfer of drive `slot` (42_bus_arbiter.md R181). -/
def fastTarget (slot : Slot) : Direction → Slot
  | .hostToDrive => slot
  | .driveToHost => 0

/-- Both ends have negotiated and the drive is enabled (42_bus_arbiter.md R181). -/
def State.fastReady (st : State) (slot : Slot) : Bool :=
  (st.part 0).fastneg && (st.part slot).fastneg && (st.drive slot).en

/-- FAST (42_bus_arbiter.md R181). -/
def execFast (slot : Slot) (dir : Direction) (imm : Byte) (st : State) : Host.Outcome State Fault Refusal :=
  driveCommand st slot (fun st =>
    if st.fastReady slot then st.updChip (fastTarget slot dir) (fun c => c.fast imm)
    else st.raise .fastNotNegotiated slot)

end Sys2Proof.Machine
end

