-- ==== Sys2Proof/Machine/ChipInputs.lean ====
section
/-! DEFINITION. The edge and level inputs of a chip (spec/43_peripheral_chip.md R240, R241). -/

namespace Sys2Proof.Machine

/-- SIGNAL (43_peripheral_chip.md R240). -/
def execSignal (slot : Slot) (line : ControlLine) (edge : Edge) (st : State) : Host.Outcome State Fault Refusal :=
  partCommand st slot (fun st => st.chipSignal slot line edge)

/-- PINA (43_peripheral_chip.md R241). -/
def execPina (slot : Slot) (imm : Byte) (st : State) : Host.Outcome State Fault Refusal :=
  partCommand st slot (fun st => st.updPart slot (fun x => { x with paIn := imm }))

end Sys2Proof.Machine
end

