-- ==== Sys2Proof/Machine/ChipReads.lean ====
section
/-! DEFINITION. The register reads RD.<reg> of a chip, issued by the platform (spec/43_peripheral_chip.md R206 and R208 to R238). -/

namespace Sys2Proof.Machine

/-- `RES <- zext(ChipRead(p, r, OPA))` (43_peripheral_chip.md R206). -/
def readCommand (r : ChipReg) (slot : Slot) (opa : Clock) (st : State) : Host.Outcome State Fault Refusal :=
  partCommand st slot (fun st =>
    let got := chipRead catchUp slot r (st.clock opa) st
    got.2.setRes got.1.toNat)

/-- RD.PB (43_peripheral_chip.md R208). -/
def execRdPb (slot : Slot) (opa : Clock) (st : State) : Host.Outcome State Fault Refusal :=
  readCommand .pb slot opa st

/-- RD.PA (43_peripheral_chip.md R210). -/
def execRdPa (slot : Slot) (opa : Clock) (st : State) : Host.Outcome State Fault Refusal :=
  readCommand .pa slot opa st

/-- RD.DDRB (43_peripheral_chip.md R212). -/
def execRdDdrb (slot : Slot) (opa : Clock) (st : State) : Host.Outcome State Fault Refusal :=
  readCommand .ddrb slot opa st

/-- RD.DDRA (43_peripheral_chip.md R214). -/
def execRdDdra (slot : Slot) (opa : Clock) (st : State) : Host.Outcome State Fault Refusal :=
  readCommand .ddra slot opa st

/-- RD.T1CL (43_peripheral_chip.md R216). -/
def execRdT1cl (slot : Slot) (opa : Clock) (st : State) : Host.Outcome State Fault Refusal :=
  readCommand .t1cl slot opa st

/-- RD.T1CH (43_peripheral_chip.md R218). -/
def execRdT1ch (slot : Slot) (opa : Clock) (st : State) : Host.Outcome State Fault Refusal :=
  readCommand .t1ch slot opa st

/-- RD.T1LL (43_peripheral_chip.md R220). -/
def execRdT1ll (slot : Slot) (opa : Clock) (st : State) : Host.Outcome State Fault Refusal :=
  readCommand .t1ll slot opa st

/-- RD.T1LH (43_peripheral_chip.md R222). -/
def execRdT1lh (slot : Slot) (opa : Clock) (st : State) : Host.Outcome State Fault Refusal :=
  readCommand .t1lh slot opa st

/-- RD.T2CL (43_peripheral_chip.md R224). -/
def execRdT2cl (slot : Slot) (opa : Clock) (st : State) : Host.Outcome State Fault Refusal :=
  readCommand .t2cl slot opa st

/-- RD.T2CH (43_peripheral_chip.md R226). -/
def execRdT2ch (slot : Slot) (opa : Clock) (st : State) : Host.Outcome State Fault Refusal :=
  readCommand .t2ch slot opa st

/-- RD.T2LL (43_peripheral_chip.md R228). -/
def execRdT2ll (slot : Slot) (opa : Clock) (st : State) : Host.Outcome State Fault Refusal :=
  readCommand .t2ll slot opa st

/-- RD.T2LH (43_peripheral_chip.md R230). -/
def execRdT2lh (slot : Slot) (opa : Clock) (st : State) : Host.Outcome State Fault Refusal :=
  readCommand .t2lh slot opa st

/-- RD.SR (43_peripheral_chip.md R232). -/
def execRdSr (slot : Slot) (opa : Clock) (st : State) : Host.Outcome State Fault Refusal :=
  readCommand .sr slot opa st

/-- RD.CR (43_peripheral_chip.md R234). -/
def execRdCr (slot : Slot) (opa : Clock) (st : State) : Host.Outcome State Fault Refusal :=
  readCommand .cr slot opa st

/-- RD.IFR (43_peripheral_chip.md R236). -/
def execRdIfr (slot : Slot) (opa : Clock) (st : State) : Host.Outcome State Fault Refusal :=
  readCommand .ifr slot opa st

/-- RD.IER (43_peripheral_chip.md R238). -/
def execRdIer (slot : Slot) (opa : Clock) (st : State) : Host.Outcome State Fault Refusal :=
  readCommand .ier slot opa st

end Sys2Proof.Machine
end

