-- ==== Sys2Proof/Machine/ChipWrites.lean ====
section
/-! DEFINITION. The register stores WR.<reg> of a chip, issued by the platform (spec/43_peripheral_chip.md R207 and R209 to R239). -/

namespace Sys2Proof.Machine

/-- `ChipStore(p, r, imm8, RMW, OPA)` (43_peripheral_chip.md R207). -/
def storeCommand (r : ChipReg) (slot : Slot) (rmw : Bool) (imm : Byte) (opa : Clock) (st : State) :
    Host.Outcome State Fault Refusal :=
  partCommand st slot (fun st => chipStore catchUp slot r imm rmw (st.clock opa) st)

/-- WR.PB (43_peripheral_chip.md R209). -/
def execWrPb (slot : Slot) (rmw : Bool) (imm : Byte) (opa : Clock) (st : State) : Host.Outcome State Fault Refusal :=
  storeCommand .pb slot rmw imm opa st

/-- WR.PA (43_peripheral_chip.md R211). -/
def execWrPa (slot : Slot) (rmw : Bool) (imm : Byte) (opa : Clock) (st : State) : Host.Outcome State Fault Refusal :=
  storeCommand .pa slot rmw imm opa st

/-- WR.DDRB (43_peripheral_chip.md R213). -/
def execWrDdrb (slot : Slot) (rmw : Bool) (imm : Byte) (opa : Clock) (st : State) : Host.Outcome State Fault Refusal :=
  storeCommand .ddrb slot rmw imm opa st

/-- WR.DDRA (43_peripheral_chip.md R215). -/
def execWrDdra (slot : Slot) (rmw : Bool) (imm : Byte) (opa : Clock) (st : State) : Host.Outcome State Fault Refusal :=
  storeCommand .ddra slot rmw imm opa st

/-- WR.T1CL (43_peripheral_chip.md R217). -/
def execWrT1cl (slot : Slot) (rmw : Bool) (imm : Byte) (opa : Clock) (st : State) : Host.Outcome State Fault Refusal :=
  storeCommand .t1cl slot rmw imm opa st

/-- WR.T1CH (43_peripheral_chip.md R219). -/
def execWrT1ch (slot : Slot) (rmw : Bool) (imm : Byte) (opa : Clock) (st : State) : Host.Outcome State Fault Refusal :=
  storeCommand .t1ch slot rmw imm opa st

/-- WR.T1LL (43_peripheral_chip.md R221). -/
def execWrT1ll (slot : Slot) (rmw : Bool) (imm : Byte) (opa : Clock) (st : State) : Host.Outcome State Fault Refusal :=
  storeCommand .t1ll slot rmw imm opa st

/-- WR.T1LH (43_peripheral_chip.md R223). -/
def execWrT1lh (slot : Slot) (rmw : Bool) (imm : Byte) (opa : Clock) (st : State) : Host.Outcome State Fault Refusal :=
  storeCommand .t1lh slot rmw imm opa st

/-- WR.T2CL (43_peripheral_chip.md R225). -/
def execWrT2cl (slot : Slot) (rmw : Bool) (imm : Byte) (opa : Clock) (st : State) : Host.Outcome State Fault Refusal :=
  storeCommand .t2cl slot rmw imm opa st

/-- WR.T2CH (43_peripheral_chip.md R227). -/
def execWrT2ch (slot : Slot) (rmw : Bool) (imm : Byte) (opa : Clock) (st : State) : Host.Outcome State Fault Refusal :=
  storeCommand .t2ch slot rmw imm opa st

/-- WR.T2LL (43_peripheral_chip.md R229). -/
def execWrT2ll (slot : Slot) (rmw : Bool) (imm : Byte) (opa : Clock) (st : State) : Host.Outcome State Fault Refusal :=
  storeCommand .t2ll slot rmw imm opa st

/-- WR.T2LH (43_peripheral_chip.md R231). -/
def execWrT2lh (slot : Slot) (rmw : Bool) (imm : Byte) (opa : Clock) (st : State) : Host.Outcome State Fault Refusal :=
  storeCommand .t2lh slot rmw imm opa st

/-- WR.SR (43_peripheral_chip.md R233). -/
def execWrSr (slot : Slot) (rmw : Bool) (imm : Byte) (opa : Clock) (st : State) : Host.Outcome State Fault Refusal :=
  storeCommand .sr slot rmw imm opa st

/-- WR.CR (43_peripheral_chip.md R235). -/
def execWrCr (slot : Slot) (rmw : Bool) (imm : Byte) (opa : Clock) (st : State) : Host.Outcome State Fault Refusal :=
  storeCommand .cr slot rmw imm opa st

/-- WR.IFR (43_peripheral_chip.md R237). -/
def execWrIfr (slot : Slot) (rmw : Bool) (imm : Byte) (opa : Clock) (st : State) : Host.Outcome State Fault Refusal :=
  storeCommand .ifr slot rmw imm opa st

/-- WR.IER (43_peripheral_chip.md R239). -/
def execWrIer (slot : Slot) (rmw : Bool) (imm : Byte) (opa : Clock) (st : State) : Host.Outcome State Fault Refusal :=
  storeCommand .ier slot rmw imm opa st

end Sys2Proof.Machine
end

