-- ==== Sys2Proof/Machine/Guard.lean ====
section
/-! DEFINITION. The overflow guard's commands (spec/41_overflow_guard.md R161 to R166). -/

namespace Sys2Proof.Machine

/-- GREG (41_overflow_guard.md R161). -/
def execGreg (slot : Slot) (st : State) : Host.Outcome State Fault Refusal :=
  driveCommand st slot (fun st => st.updDrive slot (fun d => { d with sub := true }))

/-- ADVANCE (41_overflow_guard.md R162). -/
def execAdvance (opb : BitVec 32) (st : State) : Host.Outcome State Fault Refusal :=
  command st (fun st =>
    { st with authClk := st.params.addClk st.authClk (BitVec.ofNat 64 opb.toNat) }.chipTick 0 opb.toNat)

/-- The clock registers of one drive lowered by a rebase when it is registered (41_overflow_guard.md R164, R166). -/
def Drive.rebase (P : Params) (amt : Clock) (d : Drive) : Drive :=
  if d.sub then
    { d with
      lastSync := P.subClk d.lastSync amt
      localClk := P.subClk d.localClk amt
      stopClk := P.subClk d.stopClk amt }
  else d

/-- MAYBEREB (41_overflow_guard.md R166). -/
def execMaybereb (opa : Clock) (st : State) : Host.Outcome State Fault Refusal :=
  command st (fun st =>
    if st.params.highWater < (st.clock opa).toNat then
      let amt : Clock := BitVec.ofNat 64 st.params.rebaseChunk
      (st.params.driveSlots.foldl (fun (s1 : State) s => s1.updDrive s (Drive.rebase st.params amt))
        { st with authClk := st.params.subClk st.authClk amt }).setRes st.params.rebaseChunk
    else st.setRes 0)

end Sys2Proof.Machine
end

