-- ==== Sys2Proof/Machine/Snapshot.lean ====
section
/-! DEFINITION. The persisted blocks (spec/20_memory.md R80 to R82) and the commands that write and read them
(spec/44_system_ops.md R266, R267). -/

namespace Sys2Proof.Machine

/-- The clock-domain fields of a ProcessorContext block (20_memory.md R80). -/
structure PctxBlock where
  verMajor : Byte
  verMinor : Byte
  localClk : Nat
  frac : Nat
  stopClk : Nat
  lastSync : Nat
  pflags : Byte
  jamAddr : Nat
  fields : CpuFields
deriving DecidableEq, Repr

/-- The length of a ProcessorContext block (20_memory.md R80). -/
def pctxLength (P : Params) (q : Slot) : Nat :=
  3 + 3 * P.clkW.bytes + 5 + P.cpuRegsLen + P.lastopLen + P.intstatLen + P.ramSize.read q

/-- The bytes of a ProcessorContext block in the order of 20_memory.md R80. -/
def PctxBlock.bytes (cb : Nat) (b : PctxBlock) : List Byte :=
  [0x50, b.verMajor, b.verMinor] ++ leBytes cb b.localClk ++ b.fields.cpuRegs ++ b.fields.lastOpcode
    ++ leBytes 2 b.frac ++ leBytes cb b.stopClk ++ leBytes cb b.lastSync ++ [b.pflags] ++ leBytes 2 b.jamAddr
    ++ b.fields.intStatus ++ b.fields.ram

/-- The ProcessorContext block of slot `q`, version 1.0; the drive-only fields of the host are 0 (20_memory.md R80). -/
def State.pctxBlock (st : State) (q : Slot) : PctxBlock :=
  let d := st.drive q
  let f := st.cpuSave q
  if q = 0 then
    { verMajor := 1, verMinor := 0, localClk := st.authClk.toNat, frac := 0, stopClk := 0, lastSync := 0
      pflags := 0, jamAddr := 0, fields := f }
  else
    { verMajor := 1, verMinor := 0, localClk := d.localClk.toNat, frac := d.frac.toNat, stopClk := d.stopClk.toNat
      lastSync := d.lastSync.toNat, pflags := if d.jam then 1 else 0, jamAddr := d.jamAddr.toNat, fields := f }

/-- A ProcessorContext block cut out of a string of the right length, by the offsets of 20_memory.md R80. -/
def PctxBlock.ofBytes (P : Params) (q : Slot) (bs : List Byte) : PctxBlock :=
  let cb := P.clkW.bytes
  let oRegs := 3 + cb
  let oLast := oRegs + P.cpuRegsLen
  let oFrac := oLast + P.lastopLen
  let oStop := oFrac + 2
  let oSync := oStop + cb
  let oFlags := oSync + cb
  let oJam := oFlags + 1
  let oInt := oJam + 2
  let oRam := oInt + P.intstatLen
  { verMajor := byteAt 1 bs
    verMinor := byteAt 2 bs
    localClk := leNat (bytesAt 3 cb bs)
    frac := leNat (bytesAt oFrac 2 bs)
    stopClk := leNat (bytesAt oStop cb bs)
    lastSync := leNat (bytesAt oSync cb bs)
    pflags := byteAt oFlags bs
    jamAddr := leNat (bytesAt oJam 2 bs)
    fields :=
      { cpuRegs := bytesAt oRegs P.cpuRegsLen bs
        lastOpcode := bytesAt oLast P.lastopLen bs
        intStatus := bytesAt oInt P.intstatLen bs
        ram := bytesAt oRam (P.ramSize.read q) bs } }

/-- The bits of a ProcessorContext block that must be 0 are 0; for the host all drive-only fields are among them
(20_memory.md R80, R82; 44_system_ops.md R267; log entry 21). -/
def PctxBlock.zerosOk (b : PctxBlock) (q : Slot) : Bool :=
  decide (b.pflags.extractLsb' 1 7 = 0)
  && (q != 0 || (b.frac == 0 && b.stopClk == 0 && b.lastSync == 0 && b.pflags == 0 && b.jamAddr == 0))

/-- The version exceeds what the reader understands, 1.0 (20_memory.md R82). -/
def versionTooNew (major minor : Byte) : Bool :=
  decide (1 < major.toNat) || (major == 1 && decide (0 < minor.toNat))

/-- The verdict of a reader on a block (20_memory.md R82): malformed is tested first. -/
inductive BlockVerdict where
  | malformed | tooNew | good
deriving DecidableEq, Repr

/-- The checks of 20_memory.md R82 on a ProcessorContext block. -/
def judgePctx (P : Params) (q : Slot) (bs : List Byte) : BlockVerdict :=
  if bs.length = pctxLength P q ∧ byteAt 0 bs = 0x50 ∧ (PctxBlock.ofBytes P q bs).zerosOk q then
    if versionTooNew (byteAt 1 bs) (byteAt 2 bs) then .tooNew else .good
  else .malformed

/-- The bytes of a PeripheralChipState block (20_memory.md R81). -/
def chipBytes (x : Part) : List Byte :=
  let c := x.chip
  [0x43, 1, 0, c.ora, c.orb, c.ddra, c.ddrb, c.ifr.setWidth 8, c.ier.setWidth 8]
    ++ leBytes 2 c.t1.latch.toNat ++ leBytes 2 c.t1.count.toNat
    ++ leBytes 2 c.t2.latch.toNat ++ leBytes 2 c.t2.count.toNat
    ++ [c.sr, c.srcnt.setWidth 8, c.cr.setWidth 8,
        BitVec.ofBool c.t2.run ++ BitVec.ofBool c.t1.run |>.setWidth 8, c.cl.setWidth 8, x.rmwVal, x.paIn]

/-- The chip, the read latch and the port A input from a block of 24 bytes, by the offsets of 20_memory.md R81. -/
def loadChipBytes (bs : List Byte) (x : Part) : Part :=
  let runflags := byteAt 20 bs
  { x with
    chip :=
      { ora := byteAt 3 bs
        orb := byteAt 4 bs
        ddra := byteAt 5 bs
        ddrb := byteAt 6 bs
        ifr := (byteAt 7 bs).extractLsb' 0 5
        ier := (byteAt 8 bs).extractLsb' 0 5
        t1 := { latch := BitVec.ofNat 16 (leNat (bytesAt 9 2 bs)), count := BitVec.ofNat 16 (leNat (bytesAt 11 2 bs))
                run := runflags.getLsbD 0 }
        t2 := { latch := BitVec.ofNat 16 (leNat (bytesAt 13 2 bs)), count := BitVec.ofNat 16 (leNat (bytesAt 15 2 bs))
                run := runflags.getLsbD 1 }
        sr := byteAt 17 bs
        srcnt := (byteAt 18 bs).extractLsb' 0 3
        cr := (byteAt 19 bs).extractLsb' 0 4
        cl := (byteAt 21 bs).extractLsb' 0 4 }
    rmwVal := byteAt 22 bs
    paIn := byteAt 23 bs }

/-- The bits of a PeripheralChipState block that must be 0 (20_memory.md R81). -/
def chipZerosOk (bs : List Byte) : Bool :=
  decide ((byteAt 7 bs).extractLsb' 5 3 = 0) && decide ((byteAt 8 bs).extractLsb' 5 3 = 0)
  && decide ((byteAt 18 bs).extractLsb' 3 5 = 0) && decide ((byteAt 19 bs).extractLsb' 4 4 = 0)
  && decide ((byteAt 20 bs).extractLsb' 2 6 = 0) && decide ((byteAt 21 bs).extractLsb' 4 4 = 0)

/-- The checks of 20_memory.md R82 on a PeripheralChipState block. -/
def judgeChip (bs : List Byte) : BlockVerdict :=
  if bs.length = 24 ∧ byteAt 0 bs = 0x43 ∧ chipZerosOk bs then
    if versionTooNew (byteAt 1 bs) (byteAt 2 bs) then .tooNew else .good
  else .malformed

/-- The bytes of a block of slot `q`. -/
def State.blockBytes (st : State) (q : Slot) : BlockKind → List Byte
  | .pctx => (st.pctxBlock q).bytes st.params.clkW.bytes
  | .chip => chipBytes (st.part q)

/-- SNAPSAVE (44_system_ops.md R266). -/
def execSnapsave (slot : Slot) (kind : BlockKind) (opa : Clock) (st : State) : Host.Outcome State Fault Refusal :=
  partCommand st slot (fun st =>
    let s1 := catchAll catchUp (st.clock opa) st
    { s1 with sdat := s1.blockBytes slot kind }.setRes 0)

/-- A good ProcessorContext block applied (44_system_ops.md R267). -/
def loadPctx (slot : Slot) (bs : List Byte) (st : State) : State :=
  let b := PctxBlock.ofBytes st.params slot bs
  let s1 :=
    if slot = 0 then { st with authClk := BitVec.ofNat 64 b.localClk }
    else st.updDrive slot (fun d =>
      { d with
        localClk := BitVec.ofNat 64 b.localClk
        frac := BitVec.ofNat 16 b.frac
        stopClk := BitVec.ofNat 64 b.stopClk
        lastSync := BitVec.ofNat 64 b.lastSync
        jam := b.pflags.getLsbD 0
        jamAddr := BitVec.ofNat 16 b.jamAddr })
  s1.tell slot (.wasLoaded b.fields)

/-- A good PeripheralChipState block applied; the bus is recomputed without edges (44_system_ops.md R267). -/
def loadChip (slot : Slot) (bs : List Byte) (st : State) : State :=
  let s1 := st.updPart slot (loadChipBytes bs)
  (s1.updPart slot (fun x => { x with out := x.chip.effOut })).resolveSilently

/-- SNAPLOAD (44_system_ops.md R267). -/
def execSnapload (slot : Slot) (kind : BlockKind) (sdat : List Byte) (st : State) : Host.Outcome State Fault Refusal :=
  partCommand st slot (fun st =>
    let verdict :=
      match kind with
      | .pctx => judgePctx st.params slot sdat
      | .chip => judgeChip sdat
    match verdict with
    | .malformed => (st.raise .snapshotMalformed slot).setRes 9
    | .tooNew => (st.raise .snapshotVersionUnsupported slot).setRes 4
    | .good =>
      match kind with
      | .pctx => (loadPctx slot sdat st).setRes 0
      | .chip => (loadChip slot sdat st).setRes 0)

end Sys2Proof.Machine
end

