-- ==== Sys2Proof/Machine/Converter.lean ====
section
/-! DEFINITION. The clock converter's commands (spec/40_clock_converter.md R130 to R144). -/

namespace Sys2Proof.Machine

/-- `SfCompute`: the sync factor of a frequency pair, none when it does not fit 32 bits (40_clock_converter.md R130). -/
def sfCompute (fLocal : BitVec 32) (turbo : Bool) (fDrive : BitVec 32) : Option (BitVec 32) :=
  let fEff := if turbo then fLocal.toNat * 2 else fLocal.toNat
  let q := if fDrive = 0 then 0 else fEff * 65536 / fDrive.toNat
  if q < 2 ^ 32 then some (BitVec.ofNat 32 q) else none

/-- `tab_int[s][i]` (10_state.md R25, 40_clock_converter.md R131). -/
def tabInt (sf : BitVec 32) (i : Nat) : Nat := i * sf.toNat / 65536

/-- `tab_frac[s][i]` (10_state.md R25, 40_clock_converter.md R131). -/
def tabFrac (sf : BitVec 32) (i : Nat) : Nat := i * sf.toNat % 65536

/-- The sync factor of a drive for another driving frequency. -/
def Drive.sfFor (d : Drive) (fDrive : BitVec 32) : Option (BitVec 32) := sfCompute d.fLocal d.turbo fDrive

/-- SETFDRV (40_clock_converter.md R132): all drives' factors fit and are replaced, or the command is refused whole. -/
def execSetfdrv (opb : BitVec 32) (st : State) : Host.Outcome State Fault Refusal :=
  command st (fun st =>
    if st.params.driveSlots.all (fun s => ((st.drive s).sfFor opb).isSome) then
      st.params.driveSlots.foldl
        (fun s1 s => s1.updDrive s (fun d => { d with sf := (d.sfFor opb).getD 0 })) { st with fDrive := opb }
    else st.raise .configError 0)

/-- SETFLOC (40_clock_converter.md R133). -/
def execSetfloc (slot : Slot) (opb : BitVec 32) (st : State) : Host.Outcome State Fault Refusal :=
  driveCommand st slot (fun st =>
    match sfCompute opb (st.drive slot).turbo st.fDrive with
    | some q => st.updDrive slot (fun d => { d with fLocal := opb, sf := q })
    | none => st.raise .configError slot)

/-- SETTURBO (40_clock_converter.md R134). -/
def execSetturbo (slot : Slot) (on : Bool) (st : State) : Host.Outcome State Fault Refusal :=
  driveCommand st slot (fun st =>
    if on = true ∧ st.params.turboCap.read slot = false then st.raise .configError slot
    else
      match sfCompute (st.drive slot).fLocal on st.fDrive with
      | some q => st.updDrive slot (fun d => { d with turbo := on, sf := q })
      | none => st.raise .configError slot)

/-- ENABLE with the wake-from-idle policy (40_clock_converter.md R135). -/
def execEnable (slot : Slot) (opa : Clock) (st : State) : Host.Outcome State Fault Refusal :=
  driveCommand st slot (fun st =>
    let now := st.clock opa
    if (st.drive slot).en then st
    else
      let gap := st.params.sdiff now (st.drive slot).lastSync
      (st.updDrive slot (fun d =>
        { d with en := true, lastSync := if (st.params.wakeGap : Int) < gap then now else d.lastSync })).resolve)

/-- DISABLE (40_clock_converter.md R136). -/
def execDisable (slot : Slot) (st : State) : Host.Outcome State Fault Refusal :=
  driveCommand st slot (fun st =>
    if (st.drive slot).en then
      (((st.chipReset slot).updPart slot (fun x => { x with out := 0xFF, fastneg := false })).updDrive slot
        (fun d => { d with en := false })).resolve
    else st)

/-- CATCHUP (40_clock_converter.md R137). -/
def execCatchup (slot : Slot) (opa : Clock) (st : State) : Host.Outcome State Fault Refusal :=
  driveCommand st slot (fun st => catchUp slot (st.clock opa) st)

/-- SYNCALL (40_clock_converter.md R140). -/
def execSyncall (opa : Clock) (st : State) : Host.Outcome State Fault Refusal :=
  command st (fun st => catchAll catchUp (st.clock opa) st)

/-- IDLETRAP (40_clock_converter.md R144). -/
def execIdletrap (slot : Slot) (st : State) : Host.Outcome State Fault Refusal :=
  driveCommand st slot (fun st => idleTrap slot st)

end Sys2Proof.Machine
end

