-- ==== Sys2Proof/Machine/System.lean ====
section
/-! DEFINITION. Resets, recovery and status (spec/44_system_ops.md R260 to R265). -/

namespace Sys2Proof.Machine

/-- MRESET, the one command performed in the fatal state too (44_system_ops.md R260, 60_exceptions.md R297). -/
def execMreset (st : State) : Host.Outcome State Fault Refusal := .next st.machineReset

/-- DRESET (44_system_ops.md R261). -/
def execDreset (slot : Slot) (opa : Clock) (st : State) : Host.Outcome State Fault Refusal :=
  driveCommand st slot (fun st => driveReset .soft slot (st.clock opa) st)

/-- DHRESET (44_system_ops.md R262). -/
def execDhreset (slot : Slot) (opa : Clock) (st : State) : Host.Outcome State Fault Refusal :=
  driveCommand st slot (fun st => driveReset .hard slot (st.clock opa) st)

/-- DBGATT (44_system_ops.md R263). What the debugger then does to the processor is the agent's business; the model does not
record it (log entry 22, DESIGN CHOICE). -/
def execDbgatt (slot : Slot) (opa : Clock) (st : State) : Host.Outcome State Fault Refusal :=
  driveCommand st slot (fun st =>
    if (st.drive slot).jam then
      st.updDrive slot (fun d => { d with jam := false, stopClk := d.localClk, lastSync := st.clock opa })
    else st)

/-- CLRERR (44_system_ops.md R264). -/
def execClrerr (st : State) : Host.Outcome State Fault Refusal :=
  command st (fun st => { st with err := st.err &&& 1, errSlot := 0 })

/-- The SCTL byte: run, irq, sub_mask, jam, fastneg, mode, turbo, en; the host has no drive registers and reads en = 1
(20_memory.md R72). -/
def State.sctl (st : State) (p : Slot) : Byte :=
  let d := st.drive p
  let x := st.part p
  let host := p == 0
  BitVec.ofBool (!host && st.running p) ++ BitVec.ofBool x.chip.irq ++ BitVec.ofBool (!host && d.sub)
    ++ BitVec.ofBool (!host && d.jam) ++ BitVec.ofBool x.fastneg ++ BitVec.ofBool (decide (x.mode = .active))
    ++ BitVec.ofBool (!host && d.turbo) ++ BitVec.ofBool (host || d.en)

/-- The value of a CSR selector (20_memory.md R72). -/
def State.csrValue (st : State) (slot : Slot) (sel : Csr) (idx : Nat) : Nat :=
  match sel with
  | .err => (st.errSlot ++ (0 : BitVec 2) ++ st.err).toNat
  | .sctl => (st.sctl slot).toNat
  | .jamAddr => (st.drive slot).jamAddr.toNat
  | .sf => (st.drive slot).sf.toNat
  | .localClk => (st.drive slot).localClk.toNat
  | .stopClk => (st.drive slot).stopClk.toNat
  | .lastSync => (st.drive slot).lastSync.toNat
  | .frac => (st.drive slot).frac.toNat
  | .authClk => st.authClk.toNat
  | .bus => (BitVec.ofBool st.atn ++ st.bus).toNat
  | .partOut => (st.part slot).out.toNat
  | .tabInt => tabInt (st.drive slot).sf idx
  | .tabFrac => tabFrac (st.drive slot).sf idx
  | .fDrv => st.fDrive.toNat
  | .fLoc => (BitVec.ofBool (st.drive slot).turbo ++ (st.drive slot).fLocal).toNat

/-- CSRRD (44_system_ops.md R265); the index is checked before the slot (30_encoding.md R105 steps 4 and 5). -/
def execCsrrd (slot : Slot) (sel : Csr) (opb : BitVec 32) (st : State) : Host.Outcome State Fault Refusal :=
  command st (fun st =>
    if sel.legalIndex st.params opb then
      if sel.legalSlot st.params slot then st.setRes (st.csrValue slot sel opb.toNat)
      else st.raise .slotOutOfRange slot
    else st.raise .illegalCommand slot)

end Sys2Proof.Machine
end

