-- ==== Sys2Proof/Machine/Dispatch.lean ====
section
/-! DEFINITION. The meaning of each command, one arm per row of spec/opcode_table.json. -/

namespace Sys2Proof.Machine

def exec (i : Instr) (s : State) : Host.Outcome State Fault Refusal :=
  match i with
  | .mreset => Sys2Proof.Machine.execMreset s
  | .dreset slot opa => Sys2Proof.Machine.execDreset slot opa s
  | .dhreset slot opa => Sys2Proof.Machine.execDhreset slot opa s
  | .dbgatt slot opa => Sys2Proof.Machine.execDbgatt slot opa s
  | .clrerr => Sys2Proof.Machine.execClrerr s
  | .csrrd slot sel opb => Sys2Proof.Machine.execCsrrd slot sel opb s
  | .snapsave slot kind opa => Sys2Proof.Machine.execSnapsave slot kind opa s
  | .snapload slot kind sdat => Sys2Proof.Machine.execSnapload slot kind sdat s
  | .setfdrv opb => Sys2Proof.Machine.execSetfdrv opb s
  | .setfloc slot opb => Sys2Proof.Machine.execSetfloc slot opb s
  | .setturbo slot on => Sys2Proof.Machine.execSetturbo slot on s
  | .enable slot opa => Sys2Proof.Machine.execEnable slot opa s
  | .disable slot => Sys2Proof.Machine.execDisable slot s
  | .catchup slot opa => Sys2Proof.Machine.execCatchup slot opa s
  | .syncall opa => Sys2Proof.Machine.execSyncall opa s
  | .idletrap slot => Sys2Proof.Machine.execIdletrap slot s
  | .greg slot => Sys2Proof.Machine.execGreg slot s
  | .advance opb => Sys2Proof.Machine.execAdvance opb s
  | .maybereb opa => Sys2Proof.Machine.execMaybereb opa s
  | .outchg slot act imm opa => Sys2Proof.Machine.execOutchg slot act imm opa s
  | .resolve => Sys2Proof.Machine.execResolve s
  | .setmode slot mode => Sys2Proof.Machine.execSetmode slot mode s
  | .fastneg slot on => Sys2Proof.Machine.execFastneg slot on s
  | .fast slot dir imm => Sys2Proof.Machine.execFast slot dir imm s
  | .rdPb slot opa => Sys2Proof.Machine.execRdPb slot opa s
  | .rdPa slot opa => Sys2Proof.Machine.execRdPa slot opa s
  | .rdDdrb slot opa => Sys2Proof.Machine.execRdDdrb slot opa s
  | .rdDdra slot opa => Sys2Proof.Machine.execRdDdra slot opa s
  | .rdT1cl slot opa => Sys2Proof.Machine.execRdT1cl slot opa s
  | .rdT1ch slot opa => Sys2Proof.Machine.execRdT1ch slot opa s
  | .rdT1ll slot opa => Sys2Proof.Machine.execRdT1ll slot opa s
  | .rdT1lh slot opa => Sys2Proof.Machine.execRdT1lh slot opa s
  | .rdT2cl slot opa => Sys2Proof.Machine.execRdT2cl slot opa s
  | .rdT2ch slot opa => Sys2Proof.Machine.execRdT2ch slot opa s
  | .rdT2ll slot opa => Sys2Proof.Machine.execRdT2ll slot opa s
  | .rdT2lh slot opa => Sys2Proof.Machine.execRdT2lh slot opa s
  | .rdSr slot opa => Sys2Proof.Machine.execRdSr slot opa s
  | .rdCr slot opa => Sys2Proof.Machine.execRdCr slot opa s
  | .rdIfr slot opa => Sys2Proof.Machine.execRdIfr slot opa s
  | .rdIer slot opa => Sys2Proof.Machine.execRdIer slot opa s
  | .wrPb slot rmw imm opa => Sys2Proof.Machine.execWrPb slot rmw imm opa s
  | .wrPa slot rmw imm opa => Sys2Proof.Machine.execWrPa slot rmw imm opa s
  | .wrDdrb slot rmw imm opa => Sys2Proof.Machine.execWrDdrb slot rmw imm opa s
  | .wrDdra slot rmw imm opa => Sys2Proof.Machine.execWrDdra slot rmw imm opa s
  | .wrT1cl slot rmw imm opa => Sys2Proof.Machine.execWrT1cl slot rmw imm opa s
  | .wrT1ch slot rmw imm opa => Sys2Proof.Machine.execWrT1ch slot rmw imm opa s
  | .wrT1ll slot rmw imm opa => Sys2Proof.Machine.execWrT1ll slot rmw imm opa s
  | .wrT1lh slot rmw imm opa => Sys2Proof.Machine.execWrT1lh slot rmw imm opa s
  | .wrT2cl slot rmw imm opa => Sys2Proof.Machine.execWrT2cl slot rmw imm opa s
  | .wrT2ch slot rmw imm opa => Sys2Proof.Machine.execWrT2ch slot rmw imm opa s
  | .wrT2ll slot rmw imm opa => Sys2Proof.Machine.execWrT2ll slot rmw imm opa s
  | .wrT2lh slot rmw imm opa => Sys2Proof.Machine.execWrT2lh slot rmw imm opa s
  | .wrSr slot rmw imm opa => Sys2Proof.Machine.execWrSr slot rmw imm opa s
  | .wrCr slot rmw imm opa => Sys2Proof.Machine.execWrCr slot rmw imm opa s
  | .wrIfr slot rmw imm opa => Sys2Proof.Machine.execWrIfr slot rmw imm opa s
  | .wrIer slot rmw imm opa => Sys2Proof.Machine.execWrIer slot rmw imm opa s
  | .signal slot line edge => Sys2Proof.Machine.execSignal slot line edge s
  | .pina slot imm => Sys2Proof.Machine.execPina slot imm s

end Sys2Proof.Machine
end

