-- ==== Sys2Proof/Decode.lean ====
section
/-! DEFINITION. The decoder of a command (spec/30_encoding.md R101 to R106), total on any triple and rejecting by name, and
the encoder beside it, written from the same field layout and formats. -/

namespace Sys2Proof

/-- Why a header spells no command (30_encoding.md R106); either way the block reports IllegalCommand. -/
inductive DecodeError where
  /-- the op field is not in the opcode map -/
  | unknownOpcode (op : BitVec 8)
  /-- a bit the format says must be 0 is 1 -/
  | reservedBits (op : BitVec 8)
  /-- CSRRD with selector 15 -/
  | reservedSelector
deriving DecidableEq, Repr

/-- The fields of a header word (30_encoding.md R101). -/
structure Fields where
  op : BitVec 8
  slot : Slot
  reg : BitVec 4
  rsv : BitVec 4
  dir : BitVec 1
  act : BitVec 1
  edge : BitVec 1
  rmw : BitVec 1
  imm : Byte
deriving DecidableEq, Repr

/-- R101 read from a header: op 31:24, slot 23:20, reg 19:16, rsv 15:12, DIR 11, ACT 10, EDGE 9, RMW 8, imm8 7:0. -/
def Fields.ofHeader (h : BitVec 32) : Fields where
  op := h.extractLsb' 24 8
  slot := h.extractLsb' 20 4
  reg := h.extractLsb' 16 4
  rsv := h.extractLsb' 12 4
  dir := h.extractLsb' 11 1
  act := h.extractLsb' 10 1
  edge := h.extractLsb' 9 1
  rmw := h.extractLsb' 8 1
  imm := h.extractLsb' 0 8

/-- R101 written to a header. -/
def Fields.toHeader (f : Fields) : BitVec 32 :=
  f.op ++ f.slot ++ f.reg ++ f.rsv ++ f.dir ++ f.act ++ f.edge ++ f.rmw ++ f.imm

/-- The command formats (30_encoding.md R102). -/
inductive Format where
  | N | NA | NB | S | SA | SB | SI | SD | O | F | R | W | G | X | P
deriving DecidableEq, Repr

/-- "A field the format does not list must be 0" (30_encoding.md R102; the masks of R104). -/
def Fields.fits (f : Fields) : Format → Bool
  | .N | .NA | .NB =>
    f.slot == 0 && f.reg == 0 && f.rsv == 0 && f.dir == 0 && f.act == 0 && f.edge == 0 && f.rmw == 0 && f.imm == 0
  | .S | .SA | .SB =>
    f.reg == 0 && f.rsv == 0 && f.dir == 0 && f.act == 0 && f.edge == 0 && f.rmw == 0 && f.imm == 0
  | .SI =>
    f.reg == 0 && f.rsv == 0 && f.dir == 0 && f.act == 0 && f.edge == 0 && f.rmw == 0 && f.imm.extractLsb' 1 7 == 0
  | .SD => f.reg == 0 && f.rsv == 0 && f.dir == 0 && f.act == 0 && f.edge == 0 && f.rmw == 0
  | .O => f.reg == 0 && f.rsv == 0 && f.dir == 0 && f.edge == 0 && f.rmw == 0
  | .F => f.reg == 0 && f.rsv == 0 && f.act == 0 && f.edge == 0 && f.rmw == 0
  | .R | .X => f.rsv == 0 && f.dir == 0 && f.act == 0 && f.edge == 0 && f.rmw == 0 && f.imm == 0
  | .W => f.rsv == 0 && f.dir == 0 && f.act == 0 && f.edge == 0
  | .G => f.reg.extractLsb' 2 2 == 0 && f.rsv == 0 && f.dir == 0 && f.act == 0 && f.rmw == 0 && f.imm == 0
  | .P =>
    f.reg.extractLsb' 1 3 == 0 && f.rsv == 0 && f.dir == 0 && f.act == 0 && f.edge == 0 && f.rmw == 0 && f.imm == 0

/-- The index of a chip register (43_peripheral_chip.md R201). -/
def ChipReg.index : ChipReg → BitVec 4
  | .pb => 0 | .pa => 1 | .ddrb => 2 | .ddra => 3 | .t1cl => 4 | .t1ch => 5 | .t1ll => 6 | .t1lh => 7
  | .t2cl => 8 | .t2ch => 9 | .t2ll => 10 | .t2lh => 11 | .sr => 12 | .cr => 13 | .ifr => 14 | .ier => 15

/-- The register at an index; "there is no reserved register" (43_peripheral_chip.md R201). -/
def ChipReg.ofIndex (r : BitVec 4) : ChipReg :=
  match r.toNat with
  | 0 => .pb | 1 => .pa | 2 => .ddrb | 3 => .ddra | 4 => .t1cl | 5 => .t1ch | 6 => .t1ll | 7 => .t1lh
  | 8 => .t2cl | 9 => .t2ch | 10 => .t2ll | 11 => .t2lh | 12 => .sr | 13 => .cr | 14 => .ifr | _ => .ier

/-- The number of a CSR selector (20_memory.md R72). -/
def Csr.index : Csr → BitVec 4
  | .err => 0 | .sctl => 1 | .jamAddr => 2 | .sf => 3 | .localClk => 4 | .stopClk => 5 | .lastSync => 6 | .frac => 7
  | .authClk => 8 | .bus => 9 | .partOut => 10 | .tabInt => 11 | .tabFrac => 12 | .fDrv => 13 | .fLoc => 14

/-- The selector of a number; 15 is reserved (20_memory.md R72). -/
def Csr.ofIndex (r : BitVec 4) : Option Csr :=
  match r.toNat with
  | 0 => some .err | 1 => some .sctl | 2 => some .jamAddr | 3 => some .sf | 4 => some .localClk | 5 => some .stopClk
  | 6 => some .lastSync | 7 => some .frac | 8 => some .authClk | 9 => some .bus | 10 => some .partOut
  | 11 => some .tabInt | 12 => some .tabFrac | 13 => some .fDrv | 14 => some .fLoc | _ => none

/-- The control line number minus one (30_encoding.md R103). -/
def ControlLine.index : ControlLine → BitVec 4
  | .cl1 => 0 | .cl2 => 1 | .cl3 => 2 | .cl4 => 3

/-- The control line of a `reg` field whose upper two bits are 0 (30_encoding.md R103). -/
def ControlLine.ofIndex (r : BitVec 4) : ControlLine :=
  match r.toNat with
  | 0 => .cl1 | 1 => .cl2 | 2 => .cl3 | _ => .cl4

/-- EDGE: 1 is a rising edge (30_encoding.md R101). -/
def Edge.ofBit (b : BitVec 1) : Edge := if b = 1 then .rise else .fall
/-- EDGE written. -/
def Edge.bit : Edge → BitVec 1
  | .fall => 0 | .rise => 1

/-- DIR: 1 is drive to host (30_encoding.md R101). -/
def Direction.ofBit (b : BitVec 1) : Direction := if b = 1 then .driveToHost else .hostToDrive
/-- DIR written. -/
def Direction.bit : Direction → BitVec 1
  | .hostToDrive => 0 | .driveToHost => 1

/-- imm8[0] of SETMODE: 1 is ACTIVE (42_bus_arbiter.md R179). -/
def BusMode.ofBool (b : Bool) : BusMode := if b then .active else .pullOnly
/-- imm8[0] of SETMODE written. -/
def BusMode.toBool : BusMode → Bool
  | .pullOnly => false | .active => true

/-- H[16] of SNAPSAVE and SNAPLOAD: 1 is the chip block (30_encoding.md R103). -/
def BlockKind.ofIndex (r : BitVec 4) : BlockKind := if r = 1 then .chip else .pctx
/-- H[19:16] of SNAPSAVE and SNAPLOAD written. -/
def BlockKind.index : BlockKind → BitVec 4
  | .pctx => 0 | .chip => 1

/-- The RD command of a register (30_encoding.md R104, op 0x40). -/
def Instr.rd (r : ChipReg) (slot : Slot) (opa : Clock) : Instr :=
  match r with
  | .pb => .rdPb slot opa | .pa => .rdPa slot opa | .ddrb => .rdDdrb slot opa | .ddra => .rdDdra slot opa
  | .t1cl => .rdT1cl slot opa | .t1ch => .rdT1ch slot opa | .t1ll => .rdT1ll slot opa | .t1lh => .rdT1lh slot opa
  | .t2cl => .rdT2cl slot opa | .t2ch => .rdT2ch slot opa | .t2ll => .rdT2ll slot opa | .t2lh => .rdT2lh slot opa
  | .sr => .rdSr slot opa | .cr => .rdCr slot opa | .ifr => .rdIfr slot opa | .ier => .rdIer slot opa

/-- The WR command of a register (30_encoding.md R104, op 0x41). -/
def Instr.wr (r : ChipReg) (slot : Slot) (rmw : Bool) (imm : Byte) (opa : Clock) : Instr :=
  match r with
  | .pb => .wrPb slot rmw imm opa | .pa => .wrPa slot rmw imm opa
  | .ddrb => .wrDdrb slot rmw imm opa | .ddra => .wrDdra slot rmw imm opa
  | .t1cl => .wrT1cl slot rmw imm opa | .t1ch => .wrT1ch slot rmw imm opa
  | .t1ll => .wrT1ll slot rmw imm opa | .t1lh => .wrT1lh slot rmw imm opa
  | .t2cl => .wrT2cl slot rmw imm opa | .t2ch => .wrT2ch slot rmw imm opa
  | .t2ll => .wrT2ll slot rmw imm opa | .t2lh => .wrT2lh slot rmw imm opa
  | .sr => .wrSr slot rmw imm opa | .cr => .wrCr slot rmw imm opa
  | .ifr => .wrIfr slot rmw imm opa | .ier => .wrIer slot rmw imm opa

/-- Step 3 of 30_encoding.md R105: the command, when every bit its format does not list is 0. -/
def Fields.spell (f : Fields) (fmt : Format) (i : Instr) : Except DecodeError Instr :=
  if f.fits fmt then .ok i else .error (.reservedBits f.op)

/-- The decoder, steps 1 to 3 of 30_encoding.md R105 and the selector half of step 4. The checks that need the block's
parameters (table index, slot range) are made by the command's meaning before any effect. -/
def decode (c : Command) : Except DecodeError Instr :=
  let f := Fields.ofHeader c.header
  match f.op.toNat with
  | 0x01 => f.spell .N .mreset
  | 0x02 => f.spell .SA (.dreset f.slot c.opa)
  | 0x03 => f.spell .SA (.dhreset f.slot c.opa)
  | 0x04 => f.spell .SA (.dbgatt f.slot c.opa)
  | 0x05 => f.spell .N .clrerr
  | 0x06 =>
    match Csr.ofIndex f.reg with
    | some sel => f.spell .X (.csrrd f.slot sel c.opb)
    | none => .error .reservedSelector
  | 0x07 => f.spell .P (.snapsave f.slot (BlockKind.ofIndex f.reg) c.opa)
  | 0x08 => f.spell .P (.snapload f.slot (BlockKind.ofIndex f.reg) c.sdat)
  | 0x10 => f.spell .NB (.setfdrv c.opb)
  | 0x11 => f.spell .SB (.setfloc f.slot c.opb)
  | 0x12 => f.spell .SI (.setturbo f.slot (f.imm.getLsbD 0))
  | 0x13 => f.spell .SA (.enable f.slot c.opa)
  | 0x14 => f.spell .S (.disable f.slot)
  | 0x15 => f.spell .SA (.catchup f.slot c.opa)
  | 0x16 => f.spell .NA (.syncall c.opa)
  | 0x17 => f.spell .S (.idletrap f.slot)
  | 0x20 => f.spell .S (.greg f.slot)
  | 0x21 => f.spell .NB (.advance c.opb)
  | 0x22 => f.spell .NA (.maybereb c.opa)
  | 0x30 => f.spell .O (.outchg f.slot (f.act == 1) f.imm c.opa)
  | 0x31 => f.spell .N .resolve
  | 0x32 => f.spell .SI (.setmode f.slot (BusMode.ofBool (f.imm.getLsbD 0)))
  | 0x33 => f.spell .SI (.fastneg f.slot (f.imm.getLsbD 0))
  | 0x34 => f.spell .F (.fast f.slot (Direction.ofBit f.dir) f.imm)
  | 0x40 => f.spell .R (Instr.rd (ChipReg.ofIndex f.reg) f.slot c.opa)
  | 0x41 => f.spell .W (Instr.wr (ChipReg.ofIndex f.reg) f.slot (f.rmw == 1) f.imm c.opa)
  | 0x42 => f.spell .G (.signal f.slot (ControlLine.ofIndex f.reg) (Edge.ofBit f.edge))
  | 0x43 => f.spell .SD (.pina f.slot f.imm)
  | _ => .error (.unknownOpcode f.op)

/-- A header with only `op` and `slot` set. -/
def Fields.base (op : BitVec 8) (slot : Slot) : Fields :=
  { op := op, slot := slot, reg := 0, rsv := 0, dir := 0, act := 0, edge := 0, rmw := 0, imm := 0 }

/-- A command with a header of these fields and these operand values; unused operands are written as zeros. -/
def Fields.command (f : Fields) (opa : Clock := 0) (opb : BitVec 32 := 0) (sdat : List Byte := []) : Command :=
  { header := f.toHeader, opa := opa, opb := opb, sdat := sdat }

/-- RD.<reg>: op 0x40 (43_peripheral_chip.md R206). -/
def encodeRd (r : ChipReg) (slot : Slot) (opa : Clock) : Command :=
  Fields.command { Fields.base 0x40 slot with reg := r.index } (opa := opa)

/-- WR.<reg>: op 0x41 (43_peripheral_chip.md R207). -/
def encodeWr (r : ChipReg) (slot : Slot) (rmw : Bool) (imm : Byte) (opa : Clock) : Command :=
  Fields.command { Fields.base 0x41 slot with reg := r.index, rmw := BitVec.ofBool rmw, imm := imm } (opa := opa)

/-- imm8 of a format with a one-bit operand: bit 0 is the operand, bits 7:1 are 0 (30_encoding.md R101). -/
def boolImm (b : Bool) : Byte := (BitVec.ofBool b).setWidth 8

/-- The encoder: the header and operand values of a command (30_encoding.md R102, R104). -/
def encode : Instr → Command
  | .mreset => Fields.command (.base 0x01 0)
  | .dreset s c => Fields.command (.base 0x02 s) (opa := c)
  | .dhreset s c => Fields.command (.base 0x03 s) (opa := c)
  | .dbgatt s c => Fields.command (.base 0x04 s) (opa := c)
  | .clrerr => Fields.command (.base 0x05 0)
  | .csrrd s sel n => Fields.command { Fields.base 0x06 s with reg := sel.index } (opb := n)
  | .snapsave s k c => Fields.command { Fields.base 0x07 s with reg := k.index } (opa := c)
  | .snapload s k d => Fields.command { Fields.base 0x08 s with reg := k.index } (sdat := d)
  | .setfdrv n => Fields.command (.base 0x10 0) (opb := n)
  | .setfloc s n => Fields.command (.base 0x11 s) (opb := n)
  | .setturbo s b => Fields.command { Fields.base 0x12 s with imm := boolImm b }
  | .enable s c => Fields.command (.base 0x13 s) (opa := c)
  | .disable s => Fields.command (.base 0x14 s)
  | .catchup s c => Fields.command (.base 0x15 s) (opa := c)
  | .syncall c => Fields.command (.base 0x16 0) (opa := c)
  | .idletrap s => Fields.command (.base 0x17 s)
  | .greg s => Fields.command (.base 0x20 s)
  | .advance n => Fields.command (.base 0x21 0) (opb := n)
  | .maybereb c => Fields.command (.base 0x22 0) (opa := c)
  | .outchg s a b c => Fields.command { Fields.base 0x30 s with act := BitVec.ofBool a, imm := b } (opa := c)
  | .resolve => Fields.command (.base 0x31 0)
  | .setmode s m => Fields.command { Fields.base 0x32 s with imm := boolImm m.toBool }
  | .fastneg s b => Fields.command { Fields.base 0x33 s with imm := boolImm b }
  | .fast s d b => Fields.command { Fields.base 0x34 s with dir := d.bit, imm := b }
  | .rdPb s c => encodeRd .pb s c
  | .rdPa s c => encodeRd .pa s c
  | .rdDdrb s c => encodeRd .ddrb s c
  | .rdDdra s c => encodeRd .ddra s c
  | .rdT1cl s c => encodeRd .t1cl s c
  | .rdT1ch s c => encodeRd .t1ch s c
  | .rdT1ll s c => encodeRd .t1ll s c
  | .rdT1lh s c => encodeRd .t1lh s c
  | .rdT2cl s c => encodeRd .t2cl s c
  | .rdT2ch s c => encodeRd .t2ch s c
  | .rdT2ll s c => encodeRd .t2ll s c
  | .rdT2lh s c => encodeRd .t2lh s c
  | .rdSr s c => encodeRd .sr s c
  | .rdCr s c => encodeRd .cr s c
  | .rdIfr s c => encodeRd .ifr s c
  | .rdIer s c => encodeRd .ier s c
  | .wrPb s m b c => encodeWr .pb s m b c
  | .wrPa s m b c => encodeWr .pa s m b c
  | .wrDdrb s m b c => encodeWr .ddrb s m b c
  | .wrDdra s m b c => encodeWr .ddra s m b c
  | .wrT1cl s m b c => encodeWr .t1cl s m b c
  | .wrT1ch s m b c => encodeWr .t1ch s m b c
  | .wrT1ll s m b c => encodeWr .t1ll s m b c
  | .wrT1lh s m b c => encodeWr .t1lh s m b c
  | .wrT2cl s m b c => encodeWr .t2cl s m b c
  | .wrT2ch s m b c => encodeWr .t2ch s m b c
  | .wrT2ll s m b c => encodeWr .t2ll s m b c
  | .wrT2lh s m b c => encodeWr .t2lh s m b c
  | .wrSr s m b c => encodeWr .sr s m b c
  | .wrCr s m b c => encodeWr .cr s m b c
  | .wrIfr s m b c => encodeWr .ifr s m b c
  | .wrIer s m b c => encodeWr .ier s m b c
  | .signal s l e => Fields.command { Fields.base 0x42 s with reg := l.index, edge := e.bit }
  | .pina s b => Fields.command { Fields.base 0x43 s with imm := b }

/-- A command from one number: H is bits 31:0, OPA bits 95:32, OPB bits 127:96 (log entry 18, DESIGN CHOICE for the
operands; the table numbers the 32 bits of H only). -/
def Command.ofNat (nbits w : Nat) : Command :=
  let v := w % 2 ^ nbits
  { header := BitVec.ofNat 32 v, opa := BitVec.ofNat 64 (v >>> 32), opb := BitVec.ofNat 32 (v >>> 96), sdat := [] }

/-- The instruction the decoder reads from a table word; operand values above `nbits` are zeros. -/
def decodeTableWord (nbits w : Nat) : Option Instr := (decode (Command.ofNat nbits w)).toOption

end Sys2Proof
end

