-- ==== Sys2Proof/Machine/Fetch.lean ====
section
/-! DEFINITION. How a command reaches the block (spec/30_encoding.md R100, spec/20_memory.md R85; log entry 4): the port is a
queue of presented commands, and the oldest one is taken. -/

namespace Sys2Proof.Machine

/-- The oldest command presented and the state without it; none when nothing is presented. -/
def State.takeCommand (st : State) : Option (Command × State) :=
  match st.port with
  | [] => none
  | c :: rest => some (c, { st with port := rest })

/-- A header that spells no command: the fatal condition IllegalCommand, with `H[23:20]` as the slot
(30_encoding.md R106, 60_exceptions.md R291); ignored in the fatal state (R297). -/
def illegalHeader (c : Command) (st : State) : Host.Outcome State Fault Refusal :=
  command st (fun st => st.raise .illegalCommand (Fields.ofHeader c.header).slot)

/-- A command presented ahead of those waiting. -/
def State.present (st : State) (c : Command) : State := { st with port := c :: st.port }

end Sys2Proof.Machine
end

