-- ==== Sys2Proof/Machine/Step.lean ====
section
/-! DEFINITION. One step of the block: take the oldest presented command, decode it, perform it to completion
(spec/20_memory.md R85, spec/30_encoding.md R105). -/

namespace Sys2Proof.Machine

/-- One step. A parameter set that breaks a constraint is refused (00_scope.md R7); with no command presented nothing
happens (log entry 4, DESIGN CHOICE). -/
def step (st : State) : Host.Outcome State Fault Refusal :=
  if st.params.legal then
    match st.takeCommand with
    | none => .next st
    | some taken =>
      match decode taken.1 with
      | .ok i => exec i taken.2
      | .error _ => illegalHeader taken.1 taken.2
  else .refused .illegalParameters

/-- The state with a table word presented as the next command (log entries 4 and 18). -/
def State.withFetchWord (s : State) (nbits w : Nat) : State := s.present (Command.ofNat nbits w)

end Sys2Proof.Machine
end

