-- ==== Sys2Proof/Machine/Reference.lean ====
section
/-! DEFINITION. The normative loops of the spec written out as they stand, beside the closed forms the machine uses
(log entry 11), and the bit-serial path the fast transfer replaces: what the statements compare the machine with. -/

namespace Sys2Proof.Machine

/-- One tick of one timer, and whether it expired (43_peripheral_chip.md R204). -/
def Timer.tickOnce (t : Timer) (freeRun : Bool) : Timer × Bool :=
  if t.run then
    if t.count = 0 then
      (if freeRun then { t with count := t.latch } else { t with run := false }, true)
    else ({ t with count := t.count - 1 }, false)
  else (t, false)

/-- `n` ticks of one timer, and whether it expired on one of them (43_peripheral_chip.md R204). -/
def Timer.tickLoop (freeRun : Bool) : Nat → Timer → Timer × Bool
  | 0, t => (t, false)
  | n + 1, t =>
    let first := t.tickOnce freeRun
    let rest := tickLoop freeRun n first.1
    (rest.1, first.2 || rest.2)

/-- One tick of a chip: timer 1, then timer 2 (43_peripheral_chip.md R204). -/
def Chip.tickOnce (c : Chip) : Chip :=
  let r1 := c.t1.tickOnce c.t1FreeRun
  let c1 := if r1.2 then { c with t1 := r1.1 }.setFlag .t1 else { c with t1 := r1.1 }
  let r2 := c1.t2.tickOnce c1.t2FreeRun
  if r2.2 then { c1 with t2 := r2.1 }.setFlag .t2 else { c1 with t2 := r2.1 }

/-- `ChipTick` as the loop of 43_peripheral_chip.md R204. -/
def Chip.tickLoop : Nat → Chip → Chip
  | 0, c => c
  | n + 1, c => tickLoop n c.tickOnce

/-- The conversion loop of 40_clock_converter.md R137, chunk by chunk through the table; `fuel` bounds the chunks. -/
def convertLoop (P : Params) (sf : BitVec 32) : Nat → Nat → Clock → BitVec 16 → Clock × BitVec 16
  | 0, _, stop, frac => (stop, frac)
  | fuel + 1, delta, stop, frac =>
    if delta = 0 then (stop, frac)
    else
      let c := min delta P.horizon
      let stop1 := P.addClk stop (BitVec.ofNat 64 (tabInt sf c))
      let a := frac.toNat + tabFrac sf c
      if 65536 ≤ a then
        convertLoop P sf fuel (delta - c) (P.addClk stop1 1) (BitVec.ofNat 16 (a - 65536))
      else convertLoop P sf fuel (delta - c) stop1 (BitVec.ofNat 16 a)

/-- SERBIT: one bit cell of the bit-serial path (30_encoding.md R110). -/
def serBit (p : Slot) (b : Bool) : List Instr :=
  [.signal p .cl4 (if b then .rise else .fall), .signal p .cl3 .fall, .signal p .cl3 .rise]

/-- SERBYTE: eight bit cells, bit 7 first (30_encoding.md R110). -/
def serByte (p : Slot) (v : Byte) : List Instr :=
  [7, 6, 5, 4, 3, 2, 1, 0].flatMap (fun i => serBit p (v.getLsbD i))

end Sys2Proof.Machine
end

