-- ==== Sys2Proof/WellFormed.lean ====
section
/-! DEFINITION. When a command is well-formed for a block with given parameters: exactly when the decoder's last checks
(spec/30_encoding.md R105 steps 4 and 5) let it through and its clock operand fits the port. -/

namespace Sys2Proof

/-- The slot is in the range the command's rule allows (20_memory.md R74) and the selector's index in its table (R73). -/
def Instr.inRange (P : Params) : Instr → Bool
  | .mreset | .clrerr | .setfdrv _ | .syncall _ | .advance _ | .maybereb _ | .resolve => true
  | .dreset s _ | .dhreset s _ | .dbgatt s _ | .setfloc s _ | .setturbo s _ | .enable s _ | .disable s
  | .catchup s _ | .idletrap s | .greg s | .fast s _ _ => P.isDrive s
  | .csrrd s sel idx => sel.legalIndex P idx && sel.legalSlot P s
  | .snapsave p _ _ | .snapload p _ _ | .outchg p _ _ _ | .setmode p _ | .fastneg p _ => P.isPart p
  | .rdPb p _ | .rdPa p _ | .rdDdrb p _ | .rdDdra p _ | .rdT1cl p _ | .rdT1ch p _ | .rdT1ll p _ | .rdT1lh p _
  | .rdT2cl p _ | .rdT2ch p _ | .rdT2ll p _ | .rdT2lh p _ | .rdSr p _ | .rdCr p _ | .rdIfr p _ | .rdIer p _ => P.isPart p
  | .wrPb p _ _ _ | .wrPa p _ _ _ | .wrDdrb p _ _ _ | .wrDdra p _ _ _ | .wrT1cl p _ _ _ | .wrT1ch p _ _ _
  | .wrT1ll p _ _ _ | .wrT1lh p _ _ _ | .wrT2cl p _ _ _ | .wrT2ch p _ _ _ | .wrT2ll p _ _ _ | .wrT2lh p _ _ _
  | .wrSr p _ _ _ | .wrCr p _ _ _ | .wrIfr p _ _ _ | .wrIer p _ _ _ => P.isPart p
  | .signal p _ _ | .pina p _ => P.isPart p

/-- Every clock operand the command uses fits the port (30_encoding.md R100, R103). -/
def Instr.operandsFit (P : Params) : Instr → Bool
  | .dreset _ c | .dhreset _ c | .dbgatt _ c | .snapsave _ _ c | .enable _ c | .catchup _ c | .syncall c
  | .maybereb c | .outchg _ _ _ c => P.clockFits c
  | .rdPb _ c | .rdPa _ c | .rdDdrb _ c | .rdDdra _ c | .rdT1cl _ c | .rdT1ch _ c | .rdT1ll _ c | .rdT1lh _ c
  | .rdT2cl _ c | .rdT2ch _ c | .rdT2ll _ c | .rdT2lh _ c | .rdSr _ c | .rdCr _ c | .rdIfr _ c | .rdIer _ c => P.clockFits c
  | .wrPb _ _ _ c | .wrPa _ _ _ c | .wrDdrb _ _ _ c | .wrDdra _ _ _ c | .wrT1cl _ _ _ c | .wrT1ch _ _ _ c
  | .wrT1ll _ _ _ c | .wrT1lh _ _ _ c | .wrT2cl _ _ _ c | .wrT2ch _ _ _ c | .wrT2ll _ _ _ c | .wrT2lh _ _ _ c
  | .wrSr _ _ _ c | .wrCr _ _ _ c | .wrIfr _ _ _ c | .wrIer _ _ _ c => P.clockFits c
  | .mreset | .clrerr | .csrrd _ _ _ | .snapload _ _ _ | .setfdrv _ | .setfloc _ _ | .setturbo _ _ | .disable _
  | .idletrap _ | .greg _ | .advance _ | .resolve | .setmode _ _ | .fastneg _ _ | .fast _ _ _ | .signal _ _ _
  | .pina _ _ => true

/-- A command the decoder passes to its meaning on a block with parameters `P`. -/
def Instr.wellFormed (P : Params) (i : Instr) : Bool := i.inRange P && i.operandsFit P

end Sys2Proof
end

