-- ==== Sys2Proof/Safety.lean ====
section
/-! DEFINITION. What the statements call a good state and a good run: the invariants the spec gives the block, the frame of
the nested work, and the opcode map as the spec's table of masks. -/

namespace Sys2Proof.Machine

/-- The bus invariant: the resolved byte is the AND of the attached participants' contributions and the attention level is
its attention bit (10_state.md R30). -/
def State.BusCoherent (st : State) : Prop :=
  st.bus = st.wiredAnd ∧ st.atn = st.params.attention st.bus

/-- Every clock register holds CLK_W bits (00_scope.md R10, 10_state.md R22, R28, R40). -/
def State.ClocksFit (st : State) : Prop :=
  st.params.clockFits st.authClk = true ∧ st.params.clockFits st.res = true ∧
    ∀ s, st.params.clockFits (st.drive s).localClk = true ∧ st.params.clockFits (st.drive s).stopClk = true ∧
      st.params.clockFits (st.drive s).lastSync = true

/-- Bit 2 of `err` reads 0 and the fatal flag is set exactly with a fatal condition (41_overflow_guard.md R168,
60_exceptions.md R290, R291). -/
def State.ErrLegal (st : State) : Prop :=
  st.err.getLsbD 2 = false ∧
    (st.fatal = true ↔ st.errBit .slotOutOfRange = true ∨ st.errBit .illegalCommand = true)

/-- Every drive slot's sync factor is the one of its frequencies (10_state.md R24, 40_clock_converter.md R130). -/
def State.FactorsCurrent (st : State) : Prop :=
  ∀ s, st.params.isDrive s = true → (st.drive s).sfFor st.fDrive = some (st.drive s).sf

/-- What no catch-up and no bus notification changes: parameters, port, configuration, guard, result register, the pins,
the conditions other than ProcessorJammed and BusParticipantMisconfigured, and the drive registers and agent of every
slot that is not running (40_clock_converter.md R137, R142; 42_bus_arbiter.md R186). -/
structure ConfigKept (s t : State) : Prop where
  params : t.params = s.params
  port : t.port = s.port
  sdat : t.sdat = s.sdat
  fDrive : t.fDrive = s.fDrive
  authClk : t.authClk = s.authClk
  res : t.res = s.res
  conditions : t.err ||| 0b1010 = s.err ||| 0b1010
  drive : ∀ x, (t.drive x).fLocal = (s.drive x).fLocal ∧ (t.drive x).turbo = (s.drive x).turbo ∧
    (t.drive x).en = (s.drive x).en ∧ (t.drive x).sf = (s.drive x).sf ∧ (t.drive x).sub = (s.drive x).sub
  part : ∀ p, (t.part p).mode = (s.part p).mode ∧ (t.part p).fastneg = (s.part p).fastneg ∧
    (t.part p).paIn = (s.part p).paIn
  idle : ∀ x, x = 0 ∨ (s.drive x).en = false ∨ (s.drive x).jam = true → t.drive x = s.drive x ∧ t.agent x = s.agent x

/-- Two chips that differ at most in what attention edges write: the CL1 flag and the level of line 1. -/
def SameButEdges (c d : Chip) : Prop :=
  ∃ ifr cl, d = { c with ifr := ifr, cl := cl } ∧ ifr ||| 1 = c.ifr ||| 1 ∧ cl ||| 1 = c.cl ||| 1

/-- What a catch-up and everything nested in it leaves unchanged: besides `ConfigKept`, the host's and every jammed drive's
participant registers but for attention edges, a detached drive's altogether (40_clock_converter.md R142 "Side effects",
42_bus_arbiter.md R186), the sticky bits, and the slot of the last condition unless one is raised (60_exceptions.md R290,
R298): then it names a drive that was running and jammed or reported driving actively while pull-only. -/
structure CatchFrame (s t : State) : Prop where
  kept : ConfigKept s t
  sticky : s.err &&& t.err = s.err
  errSlot : t.errSlot = s.errSlot ∨ (s.params.isDrive t.errSlot = true ∧ (s.drive t.errSlot).en = true ∧
    (s.drive t.errSlot).jam = false ∧ (((t.drive t.errSlot).jam = true ∧ t.err.getLsbD 1 = true) ∨
      ((s.part t.errSlot).mode = .pullOnly ∧ t.err.getLsbD 3 = true)))
  raised : t.err ≠ s.err → s.params.isDrive t.errSlot = true
  jams : ∀ d, (s.drive d).jam = false → (t.drive d).jam = true →
    t.err.getLsbD 1 = true ∧ s.params.isDrive t.errSlot = true
  detached : ∀ p, p ≠ 0 → (s.drive p).en = false → t.part p = s.part p
  edges : ∀ p, p = 0 ∨ (s.drive p).jam = true →
    t.part p = { s.part p with chip := t.chip p } ∧ SameButEdges (s.chip p) (t.chip p)

/-- Every drive other than `x` that was enabled, not jammed and behind `clk` is at `clk`, with the local-clock equivalent of
`clk` credited to its stop value and carry (20_memory.md R86, R87; 40_clock_converter.md R138). -/
def CaughtUpBut (x : Slot) (clk : Clock) (s t : State) : Prop :=
  ∀ d, s.params.isDrive d = true → d ≠ x → (s.drive d).en = true → (s.drive d).jam = false →
    0 < s.params.sdiff clk (s.drive d).lastSync →
    let T := (s.drive d).stopClk.toNat * 65536 + (s.drive d).frac.toNat
      + (s.params.sdiff clk (s.drive d).lastSync).toNat * (s.drive d).sf.toNat
    (t.drive d).lastSync = clk ∧ (t.drive d).stopClk.toNat = T / 65536 % 2 ^ s.params.clkW.bits ∧
      (t.drive d).frac.toNat = T % 65536

/-- What running up to the stop value makes of a drive's local clock (40_clock_converter.md R139, 20_memory.md R87): a drive
whose local clock was not earlier than the new stop value did not run; another one is jammed or has reached the stop value and
passed it by less than one instruction. -/
def Ran (P : Params) (r r' : Drive) : Prop :=
  (P.sdiff r'.stopClk r.localClk ≤ 0 → r'.localClk = r.localClk ∧ r'.jam = r.jam) ∧
  (0 < P.sdiff r'.stopClk r.localClk →
    r'.jam = true ∨ (0 ≤ P.sdiff r'.localClk r'.stopClk ∧ P.sdiff r'.localClk r'.stopClk < P.kMax))

/-- Every drive other than `x` that was enabled, not jammed and behind `clk` has executed up to it: "fully caught up"
(20_memory.md R86, R87). R139's bound holds where no instruction passes half the clock's range (log entry 8). -/
def RanBut (x : Slot) (clk : Clock) (s t : State) : Prop :=
  1 ≤ s.params.kMax → s.params.kMax ≤ 2 ^ (s.params.clkW.bits - 1) →
    ∀ d, s.params.isDrive d = true → d ≠ x → (s.drive d).en = true → (s.drive d).jam = false →
      0 < s.params.sdiff clk (s.drive d).lastSync → Ran s.params (s.drive d) (t.drive d)

/-- Nobody but slot `x` is behind `clk`: every other drive is detached, jammed or already at `clk` or later
(40_clock_converter.md R137). -/
def State.nobodyBehind (st : State) (x : Slot) (clk : Clock) : Prop :=
  ∀ d, st.params.isDrive d = true → d ≠ x →
    (st.drive d).en = false ∨ (st.drive d).jam = true ∨ st.params.sdiff clk (st.drive d).lastSync ≤ 0

/-- `t` is `s` after one resolution of the bus: each line is released when no attached participant pulls it, the attention
level follows its line, and every attached chip gets one edge on line 1 exactly when the level changed
(42_bus_arbiter.md R176). -/
structure Resolved (s t : State) : Prop where
  rest : t = { s with bus := t.bus, atn := t.atn, parts := t.parts }
  bus : ∀ k, k < 8 → (t.bus.getLsbD k = true ↔
    ∀ p, s.params.isPart p = true → p = 0 ∨ (s.drive p).en = true → (contrib s.params (s.part p)).getLsbD k = true)
  atn : t.atn = t.bus.getLsbD s.params.atnBit.toNat
  edge : t.atn ≠ s.atn → ∀ p, s.params.isPart p = true → p = 0 ∨ (s.drive p).en = true →
    t.part p = { s.part p with
      chip := { s.chip p with
        ifr := (s.chip p).ifr ||| 0b00001
        cl := if t.atn then (s.chip p).cl ||| 0b0001 else (s.chip p).cl &&& 0b1110 } }
  quiet : ∀ p, t.atn = s.atn ∨ s.params.isPart p = false ∨ ¬ (p = 0 ∨ (s.drive p).en = true) → t.part p = s.part p

/-- The power-on value of every state element of the spec (10_state.md R44, 70_reset_and_hazards.md R331). -/
structure PowerOn (t : State) : Prop where
  block : t.fDrive = 0 ∧ t.authClk = 0 ∧ t.bus = 0xFF ∧ t.atn = true ∧ t.err = 0 ∧ t.errSlot = 0 ∧ t.res = 0
  drive : ∀ s, t.drive s =
    { fLocal := 0, turbo := false, en := false, sf := 0, localClk := 0, stopClk := 0, lastSync := 0, frac := 0
      jam := false, jamAddr := 0, sub := false }
  part : ∀ p, t.part p =
    { out := 0xFF, mode := .pullOnly, fastneg := false, rmwVal := 0, paIn := 0xFF
      chip :=
        { ora := 0, orb := 0, ddra := 0, ddrb := 0, ifr := 0, ier := 0
          t1 := { count := 0, latch := 0, run := false }, t2 := { count := 0, latch := 0, run := false }
          sr := 0, srcnt := 0, cr := 0, cl := 0b1111 } }

/-- The exact ratio of a frequency pair times 65536, rounded down; 0 for a zero driving frequency
(40_clock_converter.md R130). -/
def exactRatio (fLocal : BitVec 32) (turbo : Bool) (fDrive : BitVec 32) : Nat :=
  if fDrive = 0 then 0 else fLocal.toNat * (if turbo then 2 else 1) * 65536 / fDrive.toNat

/-- A state after a register read that returned `v` from chip `p`: `RES` and the read latch hold it
(43_peripheral_chip.md R206). -/
def State.latched (st : State) (p : Slot) (v : Byte) : State :=
  { st with res := v.setWidth 64 }.updPart p (fun x => { x with rmwVal := v })

/-- The command that a word of an instruction body stands for, on the agent's slot and with the given clock
(30_encoding.md R111). -/
def bodyCommand (d : Slot) (clk : Clock) : BodyAct → Instr
  | .wr r rmw b => Instr.wr r d rmw b clk
  | .signal line e => .signal d line e
  | .idletrap => .idletrap d

/-- An instruction body performed word by word as commands of its slot, all with the same clock; a read gives its byte to the
agent, which then chooses the next word, and leaves `RES` alone (30_encoding.md R111, 40_clock_converter.md R141, R142). -/
def performBody (d : Slot) (clk : Clock) : Body → State → Host.Outcome State Fault Refusal
  | .done, st => .next st
  | .read r next, st =>
    match exec (Instr.rd r d clk) st with
    | .next t =>
      performBody d clk (next (t.part d).rmwVal) ({ t with res := st.res }.tell d (.gotByte (t.part d).rmwVal))
    | .fault r => .fault r
    | .refused r => .refused r
  | .act a next, st =>
    match exec (bodyCommand d clk a) st with
    | .next t => performBody d clk next t
    | .fault r => .fault r
    | .refused r => .refused r

/-- A list of commands performed one after the other. -/
def performAll : List Instr → State → Host.Outcome State Fault Refusal
  | [], st => .next st
  | i :: is, st =>
    match exec i st with
    | .next t => performAll is t
    | .fault r => .fault r
    | .refused r => .refused r

end Sys2Proof.Machine

namespace Sys2Proof

/-- A header from its match word, slot, RMW bit and data byte, as the register rules write it: `match | p << 20 | rmw << 8 | b`
(43_peripheral_chip.md R206, R207). -/
def headerOf (base : BitVec 32) (p : Slot) (rmw : Bool) (b : Byte) : BitVec 32 :=
  base ||| p.setWidth 32 <<< (20 : Nat) ||| (BitVec.ofBool rmw).setWidth 32 <<< (8 : Nat) ||| b.setWidth 32

/-- The slot field of a command's header. -/
def Instr.slotField (i : Instr) : Slot := (Fields.ofHeader (encode i).header).slot

/-- The commands that write `RES`: those whose rule says they return a value, and MRESET (30_encoding.md R100). -/
def Instr.writesRes : Instr → Bool
  | .mreset | .csrrd _ _ _ | .snapsave _ _ _ | .snapload _ _ _ | .maybereb _ => true
  | .rdPb _ _ | .rdPa _ _ | .rdDdrb _ _ | .rdDdra _ _ | .rdT1cl _ _ | .rdT1ch _ _ | .rdT1ll _ _ | .rdT1lh _ _
  | .rdT2cl _ _ | .rdT2ch _ _ | .rdT2ll _ _ | .rdT2lh _ _ | .rdSr _ _ | .rdCr _ _ | .rdIfr _ _ | .rdIer _ _ => true
  | .dreset _ _ | .dhreset _ _ | .dbgatt _ _ | .clrerr | .setfdrv _ | .setfloc _ _ | .setturbo _ _ | .enable _ _
  | .disable _ | .catchup _ _ | .syncall _ | .idletrap _ | .greg _ | .advance _ | .outchg _ _ _ _ | .resolve
  | .setmode _ _ | .fastneg _ _ | .fast _ _ _ | .signal _ _ _ | .pina _ _ => false
  | .wrPb _ _ _ _ | .wrPa _ _ _ _ | .wrDdrb _ _ _ _ | .wrDdra _ _ _ _ | .wrT1cl _ _ _ _ | .wrT1ch _ _ _ _
  | .wrT1ll _ _ _ _ | .wrT1lh _ _ _ _ | .wrT2cl _ _ _ _ | .wrT2ch _ _ _ _ | .wrT2ll _ _ _ _ | .wrT2lh _ _ _ _
  | .wrSr _ _ _ _ | .wrCr _ _ _ _ | .wrIfr _ _ _ _ | .wrIer _ _ _ _ => false

/-- The row of the opcode map a command belongs to, match then mask (30_encoding.md R104, spec/opcode_table.json). -/
def Instr.row : Instr → BitVec 32 × BitVec 32
  | .mreset => (0x01000000, 0xFFFFFFFF)
  | .dreset _ _ => (0x02000000, 0xFF0FFFFF)
  | .dhreset _ _ => (0x03000000, 0xFF0FFFFF)
  | .dbgatt _ _ => (0x04000000, 0xFF0FFFFF)
  | .clrerr => (0x05000000, 0xFFFFFFFF)
  | .csrrd _ _ _ => (0x06000000, 0xFF00FFFF)
  | .snapsave _ _ _ => (0x07000000, 0xFF0EFFFF)
  | .snapload _ _ _ => (0x08000000, 0xFF0EFFFF)
  | .setfdrv _ => (0x10000000, 0xFFFFFFFF)
  | .setfloc _ _ => (0x11000000, 0xFF0FFFFF)
  | .setturbo _ _ => (0x12000000, 0xFF0FFFFE)
  | .enable _ _ => (0x13000000, 0xFF0FFFFF)
  | .disable _ => (0x14000000, 0xFF0FFFFF)
  | .catchup _ _ => (0x15000000, 0xFF0FFFFF)
  | .syncall _ => (0x16000000, 0xFFFFFFFF)
  | .idletrap _ => (0x17000000, 0xFF0FFFFF)
  | .greg _ => (0x20000000, 0xFF0FFFFF)
  | .advance _ => (0x21000000, 0xFFFFFFFF)
  | .maybereb _ => (0x22000000, 0xFFFFFFFF)
  | .outchg _ _ _ _ => (0x30000000, 0xFF0FFB00)
  | .resolve => (0x31000000, 0xFFFFFFFF)
  | .setmode _ _ => (0x32000000, 0xFF0FFFFE)
  | .fastneg _ _ => (0x33000000, 0xFF0FFFFE)
  | .fast _ _ _ => (0x34000000, 0xFF0FF700)
  | .rdPb _ _ => (0x40000000, 0xFF0FFFFF)
  | .rdPa _ _ => (0x40010000, 0xFF0FFFFF)
  | .rdDdrb _ _ => (0x40020000, 0xFF0FFFFF)
  | .rdDdra _ _ => (0x40030000, 0xFF0FFFFF)
  | .rdT1cl _ _ => (0x40040000, 0xFF0FFFFF)
  | .rdT1ch _ _ => (0x40050000, 0xFF0FFFFF)
  | .rdT1ll _ _ => (0x40060000, 0xFF0FFFFF)
  | .rdT1lh _ _ => (0x40070000, 0xFF0FFFFF)
  | .rdT2cl _ _ => (0x40080000, 0xFF0FFFFF)
  | .rdT2ch _ _ => (0x40090000, 0xFF0FFFFF)
  | .rdT2ll _ _ => (0x400A0000, 0xFF0FFFFF)
  | .rdT2lh _ _ => (0x400B0000, 0xFF0FFFFF)
  | .rdSr _ _ => (0x400C0000, 0xFF0FFFFF)
  | .rdCr _ _ => (0x400D0000, 0xFF0FFFFF)
  | .rdIfr _ _ => (0x400E0000, 0xFF0FFFFF)
  | .rdIer _ _ => (0x400F0000, 0xFF0FFFFF)
  | .wrPb _ _ _ _ => (0x41000000, 0xFF0FFE00)
  | .wrPa _ _ _ _ => (0x41010000, 0xFF0FFE00)
  | .wrDdrb _ _ _ _ => (0x41020000, 0xFF0FFE00)
  | .wrDdra _ _ _ _ => (0x41030000, 0xFF0FFE00)
  | .wrT1cl _ _ _ _ => (0x41040000, 0xFF0FFE00)
  | .wrT1ch _ _ _ _ => (0x41050000, 0xFF0FFE00)
  | .wrT1ll _ _ _ _ => (0x41060000, 0xFF0FFE00)
  | .wrT1lh _ _ _ _ => (0x41070000, 0xFF0FFE00)
  | .wrT2cl _ _ _ _ => (0x41080000, 0xFF0FFE00)
  | .wrT2ch _ _ _ _ => (0x41090000, 0xFF0FFE00)
  | .wrT2ll _ _ _ _ => (0x410A0000, 0xFF0FFE00)
  | .wrT2lh _ _ _ _ => (0x410B0000, 0xFF0FFE00)
  | .wrSr _ _ _ _ => (0x410C0000, 0xFF0FFE00)
  | .wrCr _ _ _ _ => (0x410D0000, 0xFF0FFE00)
  | .wrIfr _ _ _ _ => (0x410E0000, 0xFF0FFE00)
  | .wrIer _ _ _ _ => (0x410F0000, 0xFF0FFE00)
  | .signal _ _ _ => (0x42000000, 0xFF0CFDFF)
  | .pina _ _ => (0x43000000, 0xFF0FFF00)

/-- The words a row spells: `H & mask = match` (30_encoding.md R104). -/
def Instr.spelledBy (i : Instr) (h : BitVec 32) : Prop := h &&& i.row.2 = i.row.1

end Sys2Proof
end

