-- ==== Sys2Proof/Certificates/Slice0/Obligations.lean ====
section
/-! DEFINITION. The statements for the provers. Each docstring names the rules of spec/ it formalises; a clause that rests on
a choice of the model names the log entry. Conclusions that an instruction completes are equations `exec i s = .next t`. -/

open Sys2Proof Sys2Proof.Machine

/-! Encoding and stepping. -/

/-- 30_encoding.md R101, R102, R104: no bit of a command is dropped, with every operand at every value. -/
def Obligations.DecodeOfEncodeIsTheInstruction : Prop :=
  ∀ i : Instr, decode (encode i) = .ok i

/-- 30_encoding.md R104, R105: every legal header is the one its command is written as, so no two headers spell one command
with the same operands. -/
def Obligations.EncodeOfDecodeIsTheHeader : Prop :=
  ∀ (c : Command) (i : Instr), decode c = .ok i → (encode i).header = c.header

/-- 30_encoding.md R104, R105 steps 1 to 3, R106: a header spells the commands of a row exactly when its masked bits are the
row's match, except that CSRRD has no selector 15. -/
def Obligations.DecoderFollowsTheOpcodeMap : Prop :=
  ∀ (c : Command) (i : Instr), (∃ j, decode c = .ok j ∧ j.row = i.row) ↔
    i.spelledBy c.header ∧ ¬ (c.header.extractLsb' 24 8 = 0x06 ∧ c.header.extractLsb' 16 4 = 0xF)

/-- 30_encoding.md R109 and the examples of the command rules: a few words written out bit by bit. -/
def Obligations.WrittenOutWordsDecode : Prop :=
  decode ⟨0x3000007F, 1000, 0, []⟩ = .ok (.outchg 0 false 0x7F 1000) ∧
  decode ⟨0x30200455, 7, 0, []⟩ = .ok (.outchg 2 true 0x55 7) ∧
  decode ⟨0x341000A5, 0, 0, []⟩ = .ok (.fast 1 .hostToDrive 0xA5) ∧
  decode ⟨0x34100801, 0, 0, []⟩ = .ok (.fast 1 .driveToHost 0x01) ∧
  decode ⟨0x42110000, 0, 0, []⟩ = .ok (.signal 1 .cl2 .fall) ∧
  decode ⟨0x42120200, 0, 0, []⟩ = .ok (.signal 1 .cl3 .rise) ∧
  decode ⟨0x4100007F, 1000, 0, []⟩ = .ok (.wrPb 0 false 0x7F 1000) ∧
  decode ⟨0x411E0104, 3, 0, []⟩ = .ok (.wrIfr 1 true 0x04 3) ∧
  decode ⟨0x401C0000, 0, 0, []⟩ = .ok (.rdSr 1 0) ∧
  decode ⟨0x4310003C, 0, 0, []⟩ = .ok (.pina 1 0x3C) ∧
  decode ⟨0x06130000, 0, 0, []⟩ = .ok (.csrrd 1 .sf 0) ∧
  decode ⟨0x07110000, 2000, 0, []⟩ = .ok (.snapsave 1 .chip 2000) ∧
  decode ⟨0x12100001, 0, 0, []⟩ = .ok (.setturbo 1 true) ∧
  decode ⟨0x15100000, 10000, 0, []⟩ = .ok (.catchup 1 10000) ∧
  decode ⟨0x22000000, 0xFF000000, 0, []⟩ = .ok (.maybereb 0xFF000000) ∧
  decode ⟨0, 0, 0, []⟩ = .error (.unknownOpcode 0) ∧
  decode ⟨0x060F0000, 0, 0, []⟩ = .error .reservedSelector ∧
  decode ⟨0x12100002, 0, 0, []⟩ = .error (.reservedBits 0x12)

/-- 20_memory.md R85, 30_encoding.md R105, R106, 60_exceptions.md R297: a step takes the oldest presented command and performs
it; a header that spells none is the fatal condition IllegalCommand (code 7, bit 0 with it), ignored in the fatal state. That
an empty port leaves the state as it is, is the model's choice (log entry 4). -/
def Obligations.StepRunsTheDecodedCommand : Prop :=
  ∀ s : State, s.params.legal = true →
    (s.port = [] → step s = .next s) ∧
    ∀ (c : Command) (rest : List Command), s.port = c :: rest →
      (∀ i, decode c = .ok i → step s = exec i { s with port := rest }) ∧
      (∀ e, decode c = .error e → step s = .next
        (if s.err.getLsbD 0 then { s with port := rest }
          else { s with port := rest, err := s.err ||| 0x081, errSlot := c.header.extractLsb' 20 4 }))

/-- 00_scope.md R7 says that a model refuses a parameter set that breaks a constraint; that it is `step` that refuses, in every
such state, is the model's choice (log entry 15). The product constraint holds whenever R6's bound on HORIZON does. -/
def Obligations.StepRefusesIllegalParameters : Prop :=
  (∀ s : State,
    ¬ (s.params.highWater + s.params.maxStep < 2 ^ s.params.clkW.bits ∧
        0 < s.params.rebaseChunk ∧ s.params.rebaseChunk ≤ s.params.highWater ∧
        s.params.horizon * (2 ^ 32 - 1) < 2 ^ (s.params.clkW.bits + 16) ∧
        s.params.ndrives ≤ 15) →
      step s = .refused .illegalParameters) ∧
  ∀ (w : ClockWidth) (h : Nat), h < 2 ^ 16 → h * (2 ^ 32 - 1) < 2 ^ (w.bits + 16)

/-- 60_exceptions.md R297: in the fatal state every command but MRESET is ignored, and MRESET leaves that state. -/
def Obligations.FatalStateIgnoresAllButReset : Prop :=
  ∀ s : State, s.err.getLsbD 0 = true →
    (∀ i : Instr, i ≠ .mreset → exec i s = .next s) ∧ ∃ t, exec .mreset s = .next t ∧ t.err.getLsbD 0 = false

/-- 20_memory.md R74, 30_encoding.md R105 steps 4 and 5, 60_exceptions.md R290, R297: a command out of range raises its fatal
condition with its slot field and does nothing else; the table index is checked before the slot. -/
def Obligations.OutOfRangeCommandsAreFatal : Prop :=
  ∀ (i : Instr) (s : State), s.err.getLsbD 0 = false → i.inRange s.params = false →
    exec i s = .next { s with
      err := s.err ||| (match i with
        | .csrrd _ .tabInt n => if s.params.horizon < n.toNat then 0x081 else 0x021
        | .csrrd _ .tabFrac n => if s.params.horizon < n.toNat then 0x081 else 0x021
        | _ => 0x021)
      errSlot := i.slotField }

/-! Invariants. -/

/-- 10_state.md R30, R40, R41; 00_scope.md R7: the state after reset meets every invariant below. -/
def Obligations.ResetMeetsTheInvariants : Prop :=
  State.reset.params.legal = true ∧ State.reset.BusCoherent ∧ State.reset.ClocksFit ∧ State.reset.ErrLegal ∧
    State.reset.FactorsCurrent

/-- 10_state.md R30: the bus invariant holds between any two commands. -/
def Obligations.StepKeepsTheBusInvariant : Prop :=
  ∀ s t : State, s.BusCoherent → step s = .next t → t.BusCoherent

/-- 00_scope.md R10: no clock register ever holds more than CLK_W bits. -/
def Obligations.StepKeepsClockWidths : Prop :=
  ∀ s t : State, s.ClocksFit → step s = .next t → t.ClocksFit

/-- 41_overflow_guard.md R168, 60_exceptions.md R291: bit 2 of `err` always reads 0, and the fatal flag stands exactly beside
code 5 or code 7. -/
def Obligations.StepKeepsErrorBitsLegal : Prop :=
  ∀ s t : State, s.ErrLegal → step s = .next t → t.ErrLegal

/-- 10_state.md R24, 20_memory.md R90: no command leaves a sync factor that is not the one of the present frequencies. -/
def Obligations.StepKeepsSyncFactorsCurrent : Prop :=
  ∀ s t : State, s.FactorsCurrent → step s = .next t → t.FactorsCurrent

/-- The model's choice (log entries 1 and 4): a step changes no parameter and takes at most one command. -/
def Obligations.StepKeepsTheParameters : Prop :=
  ∀ s t : State, step s = .next t → t.params = s.params ∧ t.port = s.port.tail

/-- 30_encoding.md R100: "every other command leaves `RES` unchanged". -/
def Obligations.OnlyValueReturningCommandsWriteRes : Prop :=
  ∀ (i : Instr) (s t : State), i.writesRes = false → exec i s = .next t → t.res = s.res

/-- 40_clock_converter.md R143, 60_exceptions.md R292, R304: a jam ends only by DRESET, DHRESET or DBGATT of its slot, by
MRESET, or when a snapshot overwrites it (44_system_ops.md R267). -/
def Obligations.OnlyRecoveryEndsAJam : Prop :=
  ∀ (i : Instr) (s t : State) (x : Slot), exec i s = .next t → (s.drive x).jam = true → (t.drive x).jam = false →
    i = .mreset ∨ (∃ c, i = .dreset x c) ∨ (∃ c, i = .dhreset x c) ∨ (∃ c, i = .dbgatt x c) ∨
      ∃ d, i = .snapload x .pctx d

/-! The converter. -/

/-- 40_clock_converter.md R130: the quotient rounded down, 0 for a zero driving frequency, no result from 65536 on. -/
def Obligations.SyncFactorIsTheFlooredRatio : Prop :=
  (∀ (f d : BitVec 32) (turbo : Bool) (q : Nat), d ≠ 0 →
    q * d.toNat ≤ f.toNat * 2 ^ turbo.toNat * 65536 → f.toNat * 2 ^ turbo.toNat * 65536 < (q + 1) * d.toNat →
    sfCompute f turbo d = if q < 2 ^ 32 then some (BitVec.ofNat 32 q) else none) ∧
  (∀ (f : BitVec 32) (turbo : Bool), sfCompute f turbo 0 = some 0) ∧
  (∀ (d : BitVec 32) (turbo : Bool), sfCompute 0 turbo d = some 0) ∧
  (∀ d : BitVec 32, d ≠ 0 → sfCompute d false d = some 65536) ∧
  sfCompute 1000000 false 985248 = some 0x000103D5

/-- 40_clock_converter.md R132: SETFDRV replaces every drive's factor, or is refused whole. -/
def Obligations.SetfdrvReplacesEveryFactor : Prop :=
  ∀ (s : State) (f : BitVec 32), s.err.getLsbD 0 = false →
    ((∀ x, s.params.isDrive x = true → exactRatio (s.drive x).fLocal (s.drive x).turbo f < 2 ^ 32) →
      ∃ t, exec (.setfdrv f) s = .next t ∧ t = { s with fDrive := f, drives := t.drives } ∧
        ∀ x, t.drive x = if s.params.isDrive x then
          { s.drive x with sf := BitVec.ofNat 32 (exactRatio (s.drive x).fLocal (s.drive x).turbo f) }
          else s.drive x) ∧
    ((∃ x, s.params.isDrive x = true ∧ 2 ^ 32 ≤ exactRatio (s.drive x).fLocal (s.drive x).turbo f) →
      exec (.setfdrv f) s = .next { s with err := s.err ||| 0x040, errSlot := 0 })

/-- 40_clock_converter.md R133, R134: SETFLOC and SETTURBO replace the slot's frequency or turbo bit and its factor, or are
refused whole; SETTURBO needs the capability. -/
def Obligations.SetflocAndSetturboReplaceTheFactor : Prop :=
  ∀ (s : State) (d : Slot), s.err.getLsbD 0 = false → s.params.isDrive d = true →
    (∀ f : BitVec 32, exactRatio f (s.drive d).turbo s.fDrive < 2 ^ 32 →
      exec (.setfloc d f) s = .next (s.updDrive d (fun r =>
        { r with fLocal := f, sf := BitVec.ofNat 32 (exactRatio f r.turbo s.fDrive) }))) ∧
    (∀ f : BitVec 32, 2 ^ 32 ≤ exactRatio f (s.drive d).turbo s.fDrive →
      exec (.setfloc d f) s = .next { s with err := s.err ||| 0x040, errSlot := d }) ∧
    (∀ b : Bool, (b = true → s.params.turboCap.read d = true) → exactRatio (s.drive d).fLocal b s.fDrive < 2 ^ 32 →
      exec (.setturbo d b) s = .next (s.updDrive d (fun r =>
        { r with turbo := b, sf := BitVec.ofNat 32 (exactRatio r.fLocal b s.fDrive) }))) ∧
    (∀ b : Bool, (b = true ∧ s.params.turboCap.read d = false) ∨ 2 ^ 32 ≤ exactRatio (s.drive d).fLocal b s.fDrive →
      exec (.setturbo d b) s = .next { s with err := s.err ||| 0x040, errSlot := d })

/-- 40_clock_converter.md R135: ENABLE attaches the drive, moves the synchronisation point over a gap above WAKE_GAP, and
resolves the bus; an enabled drive is left alone. -/
def Obligations.EnableAttachesAndWakes : Prop :=
  ∀ (s : State) (d : Slot) (now : Clock), s.err.getLsbD 0 = false → s.params.isDrive d = true →
    ((s.drive d).en = true → exec (.enable d now) s = .next s) ∧
    ((s.drive d).en = false → ∃ t, exec (.enable d now) s = .next t ∧
      Resolved (s.updDrive d (fun r => { r with
        en := true
        lastSync := if (s.params.wakeGap : Int) < s.params.sdiff (s.params.wrap now) r.lastSync then s.params.wrap now
          else r.lastSync })) t)

/-- 40_clock_converter.md R136: DISABLE resets the chip, releases the lines, ends the negotiation, and resolves the bus; the
converter registers and the jam stay. -/
def Obligations.DisableDetaches : Prop :=
  ∀ (s : State) (d : Slot), s.err.getLsbD 0 = false → s.params.isDrive d = true →
    ((s.drive d).en = false → exec (.disable d) s = .next s) ∧
    ((s.drive d).en = true → ∃ t, exec (.disable d) s = .next t ∧
      Resolved ((s.updDrive d (fun r => { r with en := false })).updPart d (fun x =>
        { x with out := 0xFF, fastneg := false, rmwVal := 0, chip := .reset })) t)

/-- 40_clock_converter.md R138, R146: whatever the horizon, the conversion loop of R137 leaves the quotient and the remainder
of one exact sum. -/
def Obligations.ConversionLoopHasTheClosedForm : Prop :=
  ∀ (P : Params) (sf : BitVec 32) (fuel delta : Nat) (stop : Clock) (frac : BitVec 16),
    1 ≤ P.horizon → P.clockFits stop = true → delta ≤ fuel →
    let T := stop.toNat * 65536 + frac.toNat + delta * sf.toNat
    (convertLoop P sf fuel delta stop frac).1.toNat = T / 65536 % 2 ^ P.clkW.bits ∧
      (convertLoop P sf fuel delta stop frac).2.toNat = T % 65536

/-- 40_clock_converter.md R137, R138: CATCHUP of a drive that is enabled, not jammed and behind moves its synchronisation
point to the target and credits the closed form, whatever its processor and the nested work do; the frame stays. A stale
request, a detached or a jammed drive: nothing changes. -/
def Obligations.CatchupCreditsTheClosedForm : Prop :=
  ∀ (s : State) (d : Slot) (target : Clock), s.err.getLsbD 0 = false → s.params.isDrive d = true →
    ((s.drive d).en = true → (s.drive d).jam = false →
      0 < s.params.sdiff (s.params.wrap target) (s.drive d).lastSync →
      let T := (s.drive d).stopClk.toNat * 65536 + (s.drive d).frac.toNat
        + (s.params.sdiff (s.params.wrap target) (s.drive d).lastSync).toNat * (s.drive d).sf.toNat
      ∃ t, exec (.catchup d target) s = .next t ∧ CatchFrame s t ∧ (t.drive d).lastSync = s.params.wrap target ∧
        (t.drive d).stopClk.toNat = T / 65536 % 2 ^ s.params.clkW.bits ∧ (t.drive d).frac.toNat = T % 65536) ∧
    ((s.drive d).en = false ∨ (s.drive d).jam = true ∨
        s.params.sdiff (s.params.wrap target) (s.drive d).lastSync ≤ 0 →
      exec (.catchup d target) s = .next s)

/-- 40_clock_converter.md R138: how a total delta is split over two catch-ups does not show in the drive's credit: stop value,
carry and synchronisation point. For a processor whose instructions make no accesses it shows in nothing at all: the local
clock, the chip, the agent and every other part of the state end the same. The answers are taken from the script (log entry 6)
and are as many as can be asked for; the credit reaches less than half the clock's range ahead, and no instruction passes half
of it (log entry 8). -/
def Obligations.SplittingACatchupDoesNotShow : Prop :=
  ∀ (s : State) (d : Slot) (a b : Clock), s.err.getLsbD 0 = false → s.params.isDrive d = true →
    (s.drive d).en = true → (s.drive d).jam = false →
    0 < s.params.sdiff (s.params.wrap a) (s.drive d).lastSync →
    0 < s.params.sdiff (s.params.wrap b) (s.params.wrap a) →
    let delta := s.params.sdiff (s.params.wrap a) (s.drive d).lastSync + s.params.sdiff (s.params.wrap b) (s.params.wrap a)
    delta < 2 ^ (s.params.clkW.bits - 1) →
    (∀ t u v : State, exec (.catchup d a) s = .next t → (t.drive d).jam = false → exec (.catchup d b) t = .next u →
      exec (.catchup d b) s = .next v →
      (u.drive d).stopClk = (v.drive d).stopClk ∧ (u.drive d).frac = (v.drive d).frac ∧
        (u.drive d).lastSync = (v.drive d).lastSync) ∧
    (let room := s.params.sdiff (s.drive d).stopClk (s.drive d).localClk
        + ((((s.drive d).frac.toNat + delta.toNat * (s.drive d).sf.toNat) / 65536 : Nat) : Int)
     s.params.legal = true → s.params.kMax ≤ 2 ^ (s.params.clkW.bits - 1) →
     (∀ x ∈ (s.agent d).script, ∃ k, x = .instr k []) →
     room ≤ (s.agent d).script.length → room < 2 ^ (s.params.clkW.bits - 1) →
     ∃ t u, exec (.catchup d a) s = .next t ∧ exec (.catchup d b) t = .next u ∧ exec (.catchup d b) s = .next u)

/-- 40_clock_converter.md R139: after a catch-up that lets the processor run, the slot is jammed or its clock is at the stop
value or past it by less than one instruction; when the stop value is not later than the local clock nothing runs and only the
credit changes. R139 says so of every K_MAX; it holds where one instruction cannot pass half the clock's range, which is a
premise here (log entry 8, DEDUCED). -/
def Obligations.CatchupOvershootsByLessThanAnInstruction : Prop :=
  ∀ (s : State) (d : Slot) (target : Clock), s.params.legal = true → s.params.kMax ≤ 2 ^ (s.params.clkW.bits - 1) →
    s.err.getLsbD 0 = false → s.params.isDrive d = true → (s.drive d).en = true → (s.drive d).jam = false →
    0 < s.params.sdiff (s.params.wrap target) (s.drive d).lastSync →
    ∃ t, exec (.catchup d target) s = .next t ∧ Ran s.params (s.drive d) (t.drive d) ∧
      (s.params.sdiff (t.drive d).stopClk (s.drive d).localClk ≤ 0 →
        t = s.updDrive d (fun r => { r with
          lastSync := s.params.wrap target, stopClk := (t.drive d).stopClk, frac := (t.drive d).frac }))

/-- 40_clock_converter.md R139, R141, R142; 30_encoding.md R111: an instruction of `k` ticks that is due and reaches the stop
value runs whole. First its ticks reach the local clock and the chip's timers; then its body is performed word by word as
commands of the slot with `last_sync[s]`, which is the target now, as their clock, the agent getting each byte it reads before
it chooses the next word. The answer may be the oracle's or the script's (log entry 6); no instruction passes half the clock's
range (log entry 8). -/
def Obligations.CatchupRunsOneWholeInstruction : Prop :=
  ∀ (s : State) (d : Slot) (target stop : Clock) (k T : Nat) (body : Body),
    s.params.legal = true → s.err.getLsbD 0 = false → s.params.isDrive d = true →
    (s.drive d).en = true → (s.drive d).jam = false →
    0 < s.params.sdiff (s.params.wrap target) (s.drive d).lastSync →
    T = (s.drive d).stopClk.toNat * 65536 + (s.drive d).frac.toNat
      + (s.params.sdiff (s.params.wrap target) (s.drive d).lastSync).toNat * (s.drive d).sf.toNat →
    stop = s.params.wrap (BitVec.ofNat 64 (T / 65536)) →
    1 ≤ k → k ≤ s.params.kMax → k ≤ 2 ^ (s.params.clkW.bits - 1) → (s.cpuStep d).1 = .instr k body →
    0 < s.params.sdiff stop (s.drive d).localClk → s.params.sdiff stop (s.drive d).localClk ≤ k →
    let ticked := ((s.updDrive d (fun r => { r with
        lastSync := s.params.wrap target, stopClk := stop, frac := BitVec.ofNat 16 T
        localClk := s.params.addClk r.localClk (BitVec.ofNat 64 k) })).updChip d (Chip.tickLoop k)).updAgent d (fun a =>
      { a with script := a.script.tail, history := .asked (s.chip d).irq :: a.history })
    ∃ t, performBody d (s.params.wrap target) body ticked = .next t ∧ exec (.catchup d target) s = .next t ∧
      (body = .done → t = ticked)

/-- 40_clock_converter.md R142, R143; 60_exceptions.md R290, R292: a step that jams adds no tick, records the address, raises
ProcessorJammed (code 1) with the jammed slot and ends the run; the synchronisation point and the credit stay. The answer is
taken from the script (log entry 6). -/
def Obligations.JammedStepHaltsItsSlot : Prop :=
  ∀ (s : State) (d : Slot) (target stop : Clock) (addr : BitVec 16) (T : Nat) (rest : List ScriptAnswer),
    s.err.getLsbD 0 = false → s.params.isDrive d = true →
    (s.drive d).en = true → (s.drive d).jam = false →
    0 < s.params.sdiff (s.params.wrap target) (s.drive d).lastSync →
    T = (s.drive d).stopClk.toNat * 65536 + (s.drive d).frac.toNat
      + (s.params.sdiff (s.params.wrap target) (s.drive d).lastSync).toNat * (s.drive d).sf.toNat →
    stop = s.params.wrap (BitVec.ofNat 64 (T / 65536)) →
    (s.agent d).script = .jam addr :: rest →
    0 < s.params.sdiff stop (s.drive d).localClk →
    exec (.catchup d target) s = .next
      ({ s with err := s.err ||| 0x002, errSlot := d }.updDrive d (fun r => { r with
          lastSync := s.params.wrap target, stopClk := stop, frac := BitVec.ofNat 16 T
          jam := true, jamAddr := addr })
        |>.updAgent d (fun a => { a with script := rest, history := .asked (s.chip d).irq :: a.history }))

/-- 40_clock_converter.md R139, R140, 20_memory.md R87: SYNCALL brings every enabled, unjammed drive that is behind to the
target, with the local-clock equivalent credited, and each has executed up to it (where no instruction passes half the clock's
range, log entry 8); when nobody is behind it changes nothing. -/
def Obligations.SyncallBringsEveryDriveToTheTarget : Prop :=
  ∀ (s : State) (target : Clock), s.err.getLsbD 0 = false →
    ∃ t, exec (.syncall target) s = .next t ∧ CatchFrame s t ∧ CaughtUpBut 0 (s.params.wrap target) s t ∧
      RanBut 0 (s.params.wrap target) s t ∧ (s.nobodyBehind 0 (s.params.wrap target) → t = s)

/-- 40_clock_converter.md R145: nesting levels beyond the number of drives change nothing, so the machine's bound on the depth
(log entry 12) cuts nothing off. -/
def Obligations.NestingDepthIsAtMostTheDrives : Prop :=
  ∀ (s : State) (d : Slot) (target : Clock) (depth : Nat), s.params.isDrive d = true → s.params.ndrives ≤ depth →
    catchUpTo depth d target s = catchUp d target s

/-- 40_clock_converter.md R144: IDLETRAP of a running slot passes the ticks to the earliest timer expiry or to the stop value,
whichever is first, on the local clock and on the timers, tick by tick; of any other slot it does nothing. -/
def Obligations.IdletrapJumpsToTheNextEvent : Prop :=
  ∀ (s : State) (d : Slot), s.err.getLsbD 0 = false → s.params.isDrive d = true →
    ((s.drive d).en = false ∨ (s.drive d).jam = true ∨
        s.params.sdiff (s.drive d).stopClk (s.drive d).localClk ≤ 0 → exec (.idletrap d) s = .next s) ∧
    ((s.drive d).en = true → (s.drive d).jam = false →
      0 < s.params.sdiff (s.drive d).stopClk (s.drive d).localClk →
      ∀ n : Nat, n ≤ s.params.sdiff (s.drive d).stopClk (s.drive d).localClk →
        ((s.chip d).t1.run = true → n ≤ (s.chip d).t1.count.toNat + 1) →
        ((s.chip d).t2.run = true → n ≤ (s.chip d).t2.count.toNat + 1) →
        (n = s.params.sdiff (s.drive d).stopClk (s.drive d).localClk ∨
          ((s.chip d).t1.run = true ∧ n = (s.chip d).t1.count.toNat + 1) ∨
          ((s.chip d).t2.run = true ∧ n = (s.chip d).t2.count.toNat + 1)) →
        exec (.idletrap d) s = .next ((s.updDrive d (fun r =>
          { r with localClk := s.params.addClk r.localClk (BitVec.ofNat 64 n) })).updChip d (Chip.tickLoop n)))

/-! The timers. -/

/-- 43_peripheral_chip.md R204, R205: the closed form of a timer is the tick-by-tick semantics, and TicksToExpiry is the
number of ticks after which, and not before, a timer flag is next set. -/
def Obligations.TimersKeepTheirClosedForm : Prop :=
  (∀ (t : Timer) (freeRun : Bool) (n : Nat), t.run = true →
    Timer.tickLoop freeRun n t =
      if n ≤ t.count.toNat then ({ t with count := BitVec.ofNat 16 (t.count.toNat - n) }, false)
      else if freeRun then
        ({ t with count := BitVec.ofNat 16 (t.latch.toNat - (n - (t.count.toNat + 1)) % (t.latch.toNat + 1)) }, true)
      else ({ t with count := 0, run := false }, true)) ∧
  (∀ (c : Chip) (n : Nat), c.tick n = Chip.tickLoop n c) ∧
  (∀ (c : Chip) (n : Nat), c.ticksToExpiry = some n ↔
    ((c.t1.run = true ∧ n = c.t1.count.toNat + 1) ∨ (c.t2.run = true ∧ n = c.t2.count.toNat + 1)) ∧
      (c.t1.run = true → n ≤ c.t1.count.toNat + 1) ∧ (c.t2.run = true → n ≤ c.t2.count.toNat + 1)) ∧
  (∀ (c : Chip) (n : Nat), c.ticksToExpiry = some n → c.ifr &&& 0b01100 = 0 →
    (∀ m, m < n → (Chip.tickLoop m c).ifr = c.ifr) ∧ (Chip.tickLoop n c).ifr &&& 0b01100 ≠ 0) ∧
  (∀ (c : Chip) (n : Nat), c.ticksToExpiry = none → Chip.tickLoop n c = c)

/-! The guard. -/

/-- 41_overflow_guard.md R161. -/
def Obligations.GregRegistersForGood : Prop :=
  (∀ (d : Slot) (a : Clock) (n : BitVec 32) (bs : List Byte),
    decode ⟨headerOf 0x20000000 d false 0, a, n, bs⟩ = .ok (.greg d)) ∧
  (∀ (s : State) (d : Slot), s.err.getLsbD 0 = false → 1 ≤ d.toNat → d.toNat ≤ s.params.ndrives →
    exec (.greg d) s = .next (s.updDrive d (fun r => { r with sub := true })) ∧
      exec (.greg d) (s.updDrive d (fun r => { r with sub := true }))
        = .next (s.updDrive d (fun r => { r with sub := true }))) ∧
  (∀ (s : State) (d : Slot), s.err.getLsbD 0 = false → ¬ (1 ≤ d.toNat ∧ d.toNat ≤ s.params.ndrives) →
    exec (.greg d) s = .next { s with err := s.err ||| 0x021, errSlot := d }) ∧
  (∀ (i : Instr) (s t : State) (d : Slot), i ≠ .mreset → exec i s = .next t → (s.drive d).sub = true →
    (t.drive d).sub = true)

/-- 41_overflow_guard.md R162: ADVANCE moves the authoritative clock and ticks the host's chip by the same count, tick by tick;
no drive is caught up. -/
def Obligations.AdvanceMovesTheDrivingClock : Prop :=
  (∀ (a : Clock) (n : BitVec 32) (bs : List Byte), decode ⟨0x21000000, a, n, bs⟩ = .ok (.advance n)) ∧
  ∀ (s : State) (n : BitVec 32), s.err.getLsbD 0 = false →
    ∃ t, exec (.advance n) s = .next t ∧ t = { s with authClk := t.authClk, parts := t.parts } ∧
      t.authClk.toNat = (s.authClk.toNat + n.toNat) % 2 ^ s.params.clkW.bits ∧
      t.part 0 = { s.part 0 with chip := Chip.tickLoop n.toNat (s.chip 0) } ∧
      (∀ p, p ≠ 0 → t.part p = s.part p) ∧ (s.params.clockFits s.authClk = true → n = 0 → t = s)

/-- 41_overflow_guard.md R164, R166: above the high-water mark MAYBEREB lowers the authoritative clock and the three clock
registers of every registered drive by REBASE_CHUNK and returns it; at the mark or below it returns 0. -/
def Obligations.MayberebShiftsRegisteredClocks : Prop :=
  (∀ (a : Clock) (n : BitVec 32) (bs : List Byte), decode ⟨0x22000000, a, n, bs⟩ = .ok (.maybereb a)) ∧
  ∀ (s : State) (cur : Clock), s.params.legal = true → s.err.getLsbD 0 = false →
    let amt : Clock := BitVec.ofNat 64 s.params.rebaseChunk
    ((s.params.wrap cur).toNat ≤ s.params.highWater → exec (.maybereb cur) s = .next { s with res := 0 }) ∧
    (s.params.highWater < (s.params.wrap cur).toNat →
      ∃ t, exec (.maybereb cur) s = .next t ∧
        t = { s with authClk := s.params.subClk s.authClk amt, drives := t.drives, res := amt } ∧
        ∀ x, t.drive x = if s.params.isDrive x = true ∧ (s.drive x).sub = true then
          { s.drive x with
            lastSync := s.params.subClk (s.drive x).lastSync amt
            localClk := s.params.subClk (s.drive x).localClk amt
            stopClk := s.params.subClk (s.drive x).stopClk amt }
          else s.drive x)

/-- 41_overflow_guard.md R167: a rebase changes no difference between the clocks of registered slots and the authoritative
clock, and so lets nobody run and stops nobody. -/
def Obligations.RebaseKeepsClockDifferences : Prop :=
  ∀ (s t : State) (cur : Clock) (x y : Slot), exec (.maybereb cur) s = .next t →
    s.params.isDrive x = true → s.params.isDrive y = true → (s.drive x).sub = true → (s.drive y).sub = true →
    s.params.sdiff (t.drive x).lastSync (t.drive y).lastSync
        = s.params.sdiff (s.drive x).lastSync (s.drive y).lastSync ∧
      s.params.sdiff t.authClk (t.drive x).lastSync = s.params.sdiff s.authClk (s.drive x).lastSync ∧
      s.params.sdiff (t.drive x).stopClk (t.drive x).localClk
        = s.params.sdiff (s.drive x).stopClk (s.drive x).localClk ∧
      s.params.sdiff (t.drive x).localClk (t.drive y).localClk
        = s.params.sdiff (s.drive x).localClk (s.drive y).localClk ∧
      t.running x = s.running x

/-! The arbiter and the fast side-channel. -/

/-- 42_bus_arbiter.md R176, R178, R184: RESOLVE computes the wired AND and delivers exactly one edge to every attached chip when
the attention level changed; on a state that meets the bus invariant it changes nothing. -/
def Obligations.ResolveDeliversOneEdge : Prop :=
  (∀ (a : Clock) (n : BitVec 32) (bs : List Byte), decode ⟨0x31000000, a, n, bs⟩ = .ok .resolve) ∧
  ∀ s : State, s.err.getLsbD 0 = false →
    ∃ t, exec .resolve s = .next t ∧ Resolved s t ∧ (s.BusCoherent → t = s)

/-- 42_bus_arbiter.md R177, R185; 20_memory.md R86: OUTCHG first catches every other drive fully up to the clock, with the
local-clock equivalent credited and executed (where no instruction passes half the clock's range, log entry 8), then logs a
misconfiguration, stores the byte and resolves. -/
def Obligations.OutchgCatchesUpThenResolves : Prop :=
  ∀ (s : State) (p : Slot) (act : Bool) (byte : Byte) (clk : Clock), s.err.getLsbD 0 = false →
    s.params.isPart p = true →
    ∃ u t, CatchFrame s u ∧ CaughtUpBut p (s.params.wrap clk) s u ∧ RanBut p (s.params.wrap clk) s u ∧
      (s.nobodyBehind p (s.params.wrap clk) → u = s) ∧
      exec (.outchg p act byte clk) s = .next t ∧
      Resolved ((if act = true ∧ (s.part p).mode = .pullOnly then { u with err := u.err ||| 0x008, errSlot := p }
        else u).updPart p (fun x => { x with out := byte })) t

/-- 42_bus_arbiter.md R183: OUTCHG repeated with the same slot, byte and clock changes no state at all. -/
def Obligations.OutchgTwiceIsOutchgOnce : Prop :=
  ∀ (s t : State) (p : Slot) (act : Bool) (byte : Byte) (clk : Clock),
    exec (.outchg p act byte clk) s = .next t → exec (.outchg p act byte clk) t = .next t

/-- 42_bus_arbiter.md R179, R180: SETMODE writes the formula flag and resolves, FASTNEG writes the negotiation bit; nobody is
caught up. -/
def Obligations.SetmodeAndFastnegWriteTheirFlags : Prop :=
  ∀ (s : State) (p : Slot), s.err.getLsbD 0 = false → s.params.isPart p = true →
    (∀ m : BusMode, ∃ t, exec (.setmode p m) s = .next t ∧ Resolved (s.updPart p (fun x => { x with mode := m })) t) ∧
    (∀ b : Bool, exec (.fastneg p b) s = .next (s.updPart p (fun x => { x with fastneg := b })))

/-- 42_bus_arbiter.md R181: FAST puts the byte in the target's shift register, sets its flag and latches lines 3 and 4, when
both ends have negotiated; else it is refused with FastNotNegotiated (code 8). -/
def Obligations.FastDeliversTheByteOrRefuses : Prop :=
  ∀ (s : State) (d target : Slot) (dir : Direction) (byte : Byte), s.err.getLsbD 0 = false →
    s.params.isDrive d = true → (dir = .hostToDrive → target = d) → (dir = .driveToHost → target = 0) →
    ((s.part 0).fastneg = true ∧ (s.part d).fastneg = true ∧ (s.drive d).en = true →
      exec (.fast d dir byte) s = .next (s.updChip target (fun c => { c with
        sr := if c.cr.getLsbD 2 then byte else c.sr
        ifr := if c.cr.getLsbD 2 then c.ifr ||| 0b10000 else c.ifr
        cl := if byte.getLsbD 0 then c.cl ||| 0b1100 else (c.cl ||| 0b0100) &&& 0b0111 }))) ∧
    ((s.part 0).fastneg = false ∨ (s.part d).fastneg = false ∨ (s.drive d).en = false →
      exec (.fast d dir byte) s = .next { s with err := s.err ||| 0x100, errSlot := d })

/-- 43_peripheral_chip.md R242, 42_bus_arbiter.md R181, 30_encoding.md R110: the eight bit cells of the bit-serial path leave,
from any state of the target's chip, exactly what the fast transfer leaves, and touch nothing outside that chip. -/
def Obligations.FastEqualsTheBitSerialPath : Prop :=
  (∀ (s : State) (p : Slot) (byte : Byte), s.err.getLsbD 0 = false → s.params.isPart p = true →
    performAll (serByte p byte) s = .next (s.updChip p (fun c => c.fast byte))) ∧
  ∀ (s t : State) (d target : Slot) (dir : Direction) (byte : Byte), s.err.getLsbD 0 = false →
    s.params.isDrive d = true → (dir = .hostToDrive → target = d) → (dir = .driveToHost → target = 0) →
    (s.part 0).fastneg = true → (s.part d).fastneg = true → (s.drive d).en = true →
    exec (.fast d dir byte) s = .next t → performAll (serByte target byte) s = .next t

/-! The chip's registers. -/

/-- 43_peripheral_chip.md R206, R210 to R238: the reads without a side effect of their own return their register and write only
`RES` and the read latch. -/
def Obligations.PlainReadsReturnTheirRegister : Prop :=
  ∀ (s : State) (p : Slot) (clk : Clock), s.err.getLsbD 0 = false → s.params.isPart p = true →
    let c := s.chip p
    exec (.rdPa p clk) s = .next (s.latched p ((c.ora &&& c.ddra) ||| ((s.part p).paIn &&& ~~~c.ddra))) ∧
    exec (.rdDdrb p clk) s = .next (s.latched p c.ddrb) ∧
    exec (.rdDdra p clk) s = .next (s.latched p c.ddra) ∧
    exec (.rdT1cl p clk) s = .next (s.latched p (c.t1.count.extractLsb' 0 8)) ∧
    exec (.rdT1ch p clk) s = .next (s.latched p (c.t1.count.extractLsb' 8 8)) ∧
    exec (.rdT1ll p clk) s = .next (s.latched p (c.t1.latch.extractLsb' 0 8)) ∧
    exec (.rdT1lh p clk) s = .next (s.latched p (c.t1.latch.extractLsb' 8 8)) ∧
    exec (.rdT2cl p clk) s = .next (s.latched p (c.t2.count.extractLsb' 0 8)) ∧
    exec (.rdT2ch p clk) s = .next (s.latched p (c.t2.count.extractLsb' 8 8)) ∧
    exec (.rdT2ll p clk) s = .next (s.latched p (c.t2.latch.extractLsb' 0 8)) ∧
    exec (.rdT2lh p clk) s = .next (s.latched p (c.t2.latch.extractLsb' 8 8)) ∧
    exec (.rdSr p clk) s = .next (s.latched p c.sr) ∧
    exec (.rdCr p clk) s = .next (s.latched p (c.cl ++ c.cr)) ∧
    exec (.rdIer p clk) s = .next (s.latched p ((0 : BitVec 3) ++ c.ier))

/-- 43_peripheral_chip.md R203, R236: RD.IFR returns the interrupt line as it was, two zeros and the flags, then clears the two
edge flags. -/
def Obligations.RdIfrClearsTheEdgeFlags : Prop :=
  (∀ (p : Slot) (a : Clock) (n : BitVec 32) (bs : List Byte),
    decode ⟨headerOf 0x400E0000 p false 0, a, n, bs⟩ = .ok (.rdIfr p a)) ∧
  ∀ (s : State) (p : Slot) (clk : Clock) (irq : BitVec 1), s.err.getLsbD 0 = false → s.params.isPart p = true →
    (irq = 1 ↔ ∃ k, k < 5 ∧ (s.chip p).ifr.getLsbD k = true ∧ (s.chip p).ier.getLsbD k = true) →
    exec (.rdIfr p clk) s = .next ((s.latched p (irq ++ (0 : BitVec 2) ++ (s.chip p).ifr)).updChip p (fun c =>
      { c with ifr := c.ifr &&& 0b11100 }))

/-- 43_peripheral_chip.md R208; 20_memory.md R86: a drive's RD.PB sees the bus as it stands; the host's first catches every
drive fully up, with the local-clock equivalent credited and executed (where no instruction passes half the clock's range, log
entry 8), and resolves. -/
def Obligations.RdPbSynchronisesTheHostOnly : Prop :=
  (∀ (s : State) (p : Slot) (clk : Clock), s.err.getLsbD 0 = false → s.params.isDrive p = true →
    exec (.rdPb p clk) s = .next (s.latched p
      (((s.chip p).orb &&& (s.chip p).ddrb) ||| (s.bus &&& ~~~(s.chip p).ddrb)))) ∧
  (∀ (s : State) (clk : Clock), s.err.getLsbD 0 = false →
    ∃ u t, CatchFrame s u ∧ CaughtUpBut 0 (s.params.wrap clk) s u ∧ RanBut 0 (s.params.wrap clk) s u ∧
      (s.nobodyBehind 0 (s.params.wrap clk) → u = s) ∧ Resolved u t ∧
      exec (.rdPb 0 clk) s = .next (t.latched 0
        (((t.chip 0).orb &&& (t.chip 0).ddrb) ||| (t.bus &&& ~~~(t.chip 0).ddrb))))

/-- 43_peripheral_chip.md R207, R211, R215, R233, R235, R239: the stores to port A, its direction, the shift, control and
enable registers write their register and nothing else, whether or not a read-modify-write presents the old byte first; WR.SR
also clears the bit counter. The level port A presents is its latch on output bits and high on input bits (R202). -/
def Obligations.PlainStoresWriteTheirRegister : Prop :=
  ∀ (s : State) (p : Slot) (rmw : Bool) (b : Byte) (clk : Clock), s.err.getLsbD 0 = false → s.params.isPart p = true →
    exec (.wrPa p rmw b clk) s = .next (s.updChip p (fun c => { c with ora := b })) ∧
    exec (.wrDdra p rmw b clk) s = .next (s.updChip p (fun c => { c with ddra := b })) ∧
    exec (.wrSr p rmw b clk) s = .next (s.updChip p (fun c => { c with sr := b, srcnt := 0 })) ∧
    exec (.wrCr p rmw b clk) s = .next (s.updChip p (fun c => { c with cr := b.extractLsb' 0 4 })) ∧
    exec (.wrIer p rmw b clk) s = .next (s.updChip p (fun c => { c with ier := b.extractLsb' 0 5 })) ∧
    ∀ k, k < 8 → ((s.chip p).portAOut.getLsbD k = true ↔
      (s.chip p).ddra.getLsbD k = false ∨ (s.chip p).ora.getLsbD k = true)

/-- 43_peripheral_chip.md R217, R219, R221, R223, R225, R227, R229, R231: the timer stores write one byte of the latch; T1CH and
T2CH also load the counter and start the timer; no flag is touched. -/
def Obligations.TimerStoresWriteTheLatch : Prop :=
  ∀ (s : State) (p : Slot) (rmw : Bool) (b : Byte) (clk : Clock), s.err.getLsbD 0 = false → s.params.isPart p = true →
    let low := fun (t : Timer) => t.latch.extractLsb' 8 8 ++ b
    let high := fun (t : Timer) => b ++ t.latch.extractLsb' 0 8
    exec (.wrT1cl p rmw b clk) s = .next (s.updChip p (fun c => { c with t1 := { c.t1 with latch := low c.t1 } })) ∧
    exec (.wrT1ll p rmw b clk) s = .next (s.updChip p (fun c => { c with t1 := { c.t1 with latch := low c.t1 } })) ∧
    exec (.wrT1lh p rmw b clk) s = .next (s.updChip p (fun c => { c with t1 := { c.t1 with latch := high c.t1 } })) ∧
    exec (.wrT1ch p rmw b clk) s = .next (s.updChip p (fun c =>
      { c with t1 := { latch := high c.t1, count := high c.t1, run := true } })) ∧
    exec (.wrT2cl p rmw b clk) s = .next (s.updChip p (fun c => { c with t2 := { c.t2 with latch := low c.t2 } })) ∧
    exec (.wrT2ll p rmw b clk) s = .next (s.updChip p (fun c => { c with t2 := { c.t2 with latch := low c.t2 } })) ∧
    exec (.wrT2lh p rmw b clk) s = .next (s.updChip p (fun c => { c with t2 := { c.t2 with latch := high c.t2 } })) ∧
    exec (.wrT2ch p rmw b clk) s = .next (s.updChip p (fun c =>
      { c with t2 := { latch := high c.t2, count := high c.t2, run := true } }))

/-- 43_peripheral_chip.md R207, R237; 70_reset_and_hazards.md R341: WR.IFR clears the flags its byte selects, and as the write
phase of a read-modify-write also those the latched byte selects. -/
def Obligations.WrIfrClearsSelectedFlags : Prop :=
  ∀ (s : State) (p : Slot) (rmw : Bool) (b : Byte) (clk : Clock), s.err.getLsbD 0 = false → s.params.isPart p = true →
    ∃ t, exec (.wrIfr p rmw b clk) s = .next t ∧ t = s.updChip p (fun c => { c with ifr := (t.chip p).ifr }) ∧
      ∀ k, k < 5 → ((t.chip p).ifr.getLsbD k = true ↔
        (s.chip p).ifr.getLsbD k = true ∧ b.getLsbD k = false ∧ (rmw = true → (s.part p).rmwVal.getLsbD k = false))

/-- 43_peripheral_chip.md R207, R209, R213; 42_bus_arbiter.md R182: WR.PB and WR.DDRB write their register and then do what
OUTCHG does with the new effective output and the chip's own ACTV bit; as the write phase of a read-modify-write they store
the latched byte first and the new byte after it. That the notified byte and ACTV bit are those right after the store, before
any other drive is caught up, is read from the rules by inference (log entry 20, DEDUCED). -/
def Obligations.PortBStoresNotifyTheArbiter : Prop :=
  ∀ (s : State) (p : Slot) (b : Byte) (clk : Clock), s.err.getLsbD 0 = false → s.params.isPart p = true →
    (∃ t, exec (.wrPb p false b clk) s = .next t ∧
      exec (.outchg p ((s.chip p).cr.getLsbD 3) ((b &&& (s.chip p).ddrb) ||| ~~~(s.chip p).ddrb) clk)
        (s.updChip p (fun c => { c with orb := b })) = .next t) ∧
    (∃ t, exec (.wrDdrb p false b clk) s = .next t ∧
      exec (.outchg p ((s.chip p).cr.getLsbD 3) (((s.chip p).orb &&& b) ||| ~~~b) clk)
        (s.updChip p (fun c => { c with ddrb := b })) = .next t) ∧
    (∃ u t, exec (.wrPb p true b clk) s = .next t ∧ exec (.wrPb p false (s.part p).rmwVal clk) s = .next u ∧
      exec (.wrPb p false b clk) u = .next t) ∧
    (∃ u t, exec (.wrDdrb p true b clk) s = .next t ∧ exec (.wrDdrb p false (s.part p).rmwVal clk) s = .next u ∧
      exec (.wrDdrb p false b clk) u = .next t)

/-- 43_peripheral_chip.md R240: an edge latches its line; lines 1 and 2 set their flag on either edge; a rising edge on line 3
shifts the level of line 4 in when SREN is set, and the eighth bit sets the SR flag. -/
def Obligations.SignalLatchesTheLine : Prop :=
  (∀ (p : Slot) (line : ControlLine) (e : Edge) (a : Clock) (n : BitVec 32) (bs : List Byte),
    decode ⟨headerOf 0x42000000 p false 0 ||| (line.index.setWidth 32 <<< (16 : Nat))
      ||| ((if e = .rise then (1 : BitVec 32) else 0) <<< (9 : Nat)), a, n, bs⟩ = .ok (.signal p line e)) ∧
  (∀ (s : State) (p : Slot) (line : ControlLine) (e : Edge), s.err.getLsbD 0 = false →
    s.params.ndrives < p.toNat → exec (.signal p line e) s = .next { s with err := s.err ||| 0x021, errSlot := p }) ∧
  ∀ (s : State) (p : Slot) (e : Edge), s.err.getLsbD 0 = false → p.toNat ≤ s.params.ndrives →
    let lvl : BitVec 1 := if e = .rise then 1 else 0
    exec (.signal p .cl1 e) s = .next (s.updChip p (fun c =>
      { c with cl := c.cl.extractLsb' 1 3 ++ lvl, ifr := c.ifr ||| 0b00001 })) ∧
    exec (.signal p .cl2 e) s = .next (s.updChip p (fun c =>
      { c with cl := c.cl.extractLsb' 2 2 ++ lvl ++ c.cl.extractLsb' 0 1, ifr := c.ifr ||| 0b00010 })) ∧
    exec (.signal p .cl4 e) s = .next (s.updChip p (fun c => { c with cl := lvl ++ c.cl.extractLsb' 0 3 })) ∧
    (e = .fall ∨ (s.chip p).cr.getLsbD 2 = false → exec (.signal p .cl3 e) s = .next (s.updChip p (fun c =>
      { c with cl := c.cl.extractLsb' 3 1 ++ lvl ++ c.cl.extractLsb' 0 2 }))) ∧
    (e = .rise → (s.chip p).cr.getLsbD 2 = true → exec (.signal p .cl3 e) s = .next (s.updChip p (fun c =>
      { c with
        cl := c.cl.extractLsb' 3 1 ++ lvl ++ c.cl.extractLsb' 0 2
        sr := c.sr.extractLsb' 0 7 ++ c.cl.extractLsb' 3 1
        srcnt := c.srcnt + 1
        ifr := if c.srcnt = 7 then c.ifr ||| 0b10000 else c.ifr })))

/-- 43_peripheral_chip.md R241. -/
def Obligations.PinaSetsThePortAInput : Prop :=
  (∀ (p : Slot) (b : Byte) (a : Clock) (n : BitVec 32) (bs : List Byte),
    decode ⟨headerOf 0x43000000 p false b, a, n, bs⟩ = .ok (.pina p b)) ∧
  (∀ (s : State) (p : Slot) (b : Byte), s.err.getLsbD 0 = false → p.toNat ≤ s.params.ndrives →
    exec (.pina p b) s = .next (s.updPart p (fun x => { x with paIn := b }))) ∧
  (∀ (s : State) (p : Slot) (b : Byte), s.err.getLsbD 0 = false → s.params.ndrives < p.toNat →
    exec (.pina p b) s = .next { s with err := s.err ||| 0x021, errSlot := p })

/-! Resets, recovery, status. -/

/-- 70_reset_and_hazards.md R331: power-on and machine reset values, in every state in which MRESET is given. -/
def Obligations.PowerOnValues : Prop :=
  PowerOn State.reset ∧ ∀ s : State, ∃ t, exec .mreset s = .next t ∧ PowerOn t

/-- 44_system_ops.md R260: MRESET restores the power-on state and tells every drive's agent. What it leaves of the model's own
fields (parameters, waiting commands, the last SDAT, scripts and images) is the model's choice (log entries 5 and 10). -/
def Obligations.MresetTellsEveryAgent : Prop :=
  ∀ s : State, ∃ t, exec .mreset s = .next t ∧ PowerOn t ∧
    t.params = s.params ∧ t.port = s.port ∧ t.sdat = s.sdat ∧
    ∀ q, t.agent q = if s.params.isDrive q then
      { s.agent q with history := .wasReset .machine :: (s.agent q).history } else s.agent q

/-- 44_system_ops.md R261, R262, R263; 10_state.md R44: what the three recovery commands of a drive write and keep. That CpuReset
is recorded in the agent's past, and that the answers and snapshot fields a state fixes in advance are kept, is the model's choice
(log entry 10), as is that what a debugger does after DBGATT is not recorded there (log entry 22). -/
def Obligations.RecoveryCommandsReleaseTheSlot : Prop :=
  ∀ (s : State) (d : Slot) (now : Clock), s.err.getLsbD 0 = false → s.params.isDrive d = true →
    let reset := fun (kind : ResetKind) =>
      ((s.updDrive d (fun r => { r with
          jam := false, jamAddr := 0, stopClk := r.localClk, frac := 0, lastSync := s.params.wrap now })).updPart d
        (fun x => { x with out := 0xFF, rmwVal := 0, chip := .reset })).updAgent d
          (fun a => { a with history := .wasReset kind :: a.history })
    (∃ t, exec (.dreset d now) s = .next t ∧ Resolved (reset .soft) t) ∧
    (∃ t, exec (.dhreset d now) s = .next t ∧ Resolved (reset .hard) t) ∧
    ((s.drive d).jam = false → exec (.dbgatt d now) s = .next s) ∧
    ((s.drive d).jam = true → exec (.dbgatt d now) s = .next (s.updDrive d (fun r =>
      { r with jam := false, stopClk := r.localClk, lastSync := s.params.wrap now })))

/-- 44_system_ops.md R264. -/
def Obligations.ClrerrClearsTheStickyBits : Prop :=
  (∀ (a : Clock) (n : BitVec 32) (bs : List Byte), decode ⟨0x05000000, a, n, bs⟩ = .ok .clrerr) ∧
  (∀ s : State, s.err.getLsbD 0 = false → exec .clrerr s = .next { s with err := 0, errSlot := 0 }) ∧
  (∀ s : State, s.err.getLsbD 0 = true → exec .clrerr s = .next s)

/-- 20_memory.md R72, 44_system_ops.md R265, 10_state.md R25, R27: the fifteen selectors; only `RES` changes. -/
def Obligations.CsrrdReadsEverySelector : Prop :=
  ∀ (s : State) (n : BitVec 32), s.err.getLsbD 0 = false →
    let answers := fun (slot : Slot) (sel : Csr) (v : Clock) =>
      exec (.csrrd slot sel n) s = .next { s with res := s.params.wrap v }
    answers 0 .err ((s.errSlot ++ (0 : BitVec 2) ++ s.err).setWidth 64) ∧
    answers 0 .authClk s.authClk ∧
    answers 0 .bus ((BitVec.ofBool s.atn ++ s.bus).setWidth 64) ∧
    answers 0 .fDrv (s.fDrive.setWidth 64) ∧
    answers 0 .sctl ((BitVec.ofBool (s.chip 0).irq ++ (0 : BitVec 2) ++ BitVec.ofBool (s.part 0).fastneg
      ++ BitVec.ofBool (s.part 0).mode.toBool ++ (1 : BitVec 2)).setWidth 64) ∧
    (∀ p, s.params.isPart p = true → answers p .partOut ((s.part p).out.setWidth 64)) ∧
    ∀ d, s.params.isDrive d = true →
      answers d .sctl ((BitVec.ofBool ((s.drive d).en && !(s.drive d).jam
          && decide (0 < s.params.sdiff (s.drive d).stopClk (s.drive d).localClk))
        ++ BitVec.ofBool (s.chip d).irq ++ BitVec.ofBool (s.drive d).sub ++ BitVec.ofBool (s.drive d).jam
        ++ BitVec.ofBool (s.part d).fastneg ++ BitVec.ofBool (s.part d).mode.toBool ++ BitVec.ofBool (s.drive d).turbo
        ++ BitVec.ofBool (s.drive d).en).setWidth 64) ∧
      answers d .jamAddr ((s.drive d).jamAddr.setWidth 64) ∧
      answers d .sf ((s.drive d).sf.setWidth 64) ∧
      answers d .localClk (s.drive d).localClk ∧
      answers d .stopClk (s.drive d).stopClk ∧
      answers d .lastSync (s.drive d).lastSync ∧
      answers d .frac ((s.drive d).frac.setWidth 64) ∧
      answers d .fLoc ((BitVec.ofBool (s.drive d).turbo ++ (s.drive d).fLocal).setWidth 64) ∧
      (n.toNat ≤ s.params.horizon →
        answers d .tabInt (BitVec.ofNat 64 (n.toNat * (s.drive d).sf.toNat / 65536)) ∧
        answers d .tabFrac (BitVec.ofNat 64 (n.toNat * (s.drive d).sf.toNat % 65536)))

/-! Snapshots. -/

/-- 44_system_ops.md R266, 20_memory.md R76, R80, R81, R86: SNAPSAVE catches every drive fully up, with the local-clock
equivalent credited and executed (where no instruction passes half the clock's range, log entry 8), lays the block out byte by
byte and returns 0. The opaque fields have the lengths of the parameters; their content is free (log entry 9). -/
def Obligations.SnapsaveLaysOutTheBlocks : Prop :=
  ∀ (s : State) (q : Slot) (now : Clock), s.err.getLsbD 0 = false → s.params.isPart q = true →
    ∃ u, CatchFrame s u ∧ CaughtUpBut 0 (s.params.wrap now) s u ∧ RanBut 0 (s.params.wrap now) s u ∧
      (s.nobodyBehind 0 (s.params.wrap now) → u = s) ∧
      (let c := u.chip q
       let lo := fun (x : BitVec 16) => x.extractLsb' 0 8
       let hi := fun (x : BitVec 16) => x.extractLsb' 8 8
       exec (.snapsave q .chip now) s = .next { u with
        res := 0
        sdat := [0x43, 1, 0, c.ora, c.orb, c.ddra, c.ddrb, c.ifr.setWidth 8, c.ier.setWidth 8,
          lo c.t1.latch, hi c.t1.latch, lo c.t1.count, hi c.t1.count,
          lo c.t2.latch, hi c.t2.latch, lo c.t2.count, hi c.t2.count,
          c.sr, c.srcnt.setWidth 8, c.cr.setWidth 8,
          (BitVec.ofBool c.t2.run ++ BitVec.ofBool c.t1.run).setWidth 8, c.cl.setWidth 8,
          (u.part q).rmwVal, (u.part q).paIn] }) ∧
      ∃ regs last ints ram : List Byte, regs.length = s.params.cpuRegsLen ∧ last.length = s.params.lastopLen ∧
        ints.length = s.params.intstatLen ∧ ram.length = s.params.ramSize.read q ∧
        (let le := leBytes s.params.clkW.bytes
         let d := u.drive q
         exec (.snapsave q .pctx now) s = .next { u with
          res := 0
          sdat := if q = 0 then
              [0x50, 1, 0] ++ le u.authClk.toNat ++ regs ++ last ++ [0, 0] ++ le 0 ++ le 0 ++ [0, 0, 0] ++ ints ++ ram
            else [0x50, 1, 0] ++ le d.localClk.toNat ++ regs ++ last ++ leBytes 2 d.frac.toNat ++ le d.stopClk.toNat
              ++ le d.lastSync.toNat ++ [if d.jam then 1 else 0] ++ leBytes 2 d.jamAddr.toNat ++ ints ++ ram })

/-- 20_memory.md R82, 44_system_ops.md R267, 60_exceptions.md R295: a block of the wrong length, tag or with a must-be-zero bit
set is malformed (code 9), else one of a newer version is unsupported (code 4); nothing else of it is applied. That the
drive-only fields of the host's ProcessorContext count among the must-be-zero bits follows log entry 21. -/
def Obligations.SnaploadRefusesBadBlocks : Prop :=
  ∀ (s : State) (q : Slot) (bs : List Byte), s.err.getLsbD 0 = false → s.params.isPart q = true →
    let malformed := fun (kind : BlockKind) =>
      exec (.snapload q kind bs) s = .next { s with err := s.err ||| 0x200, errSlot := q, res := 9 }
    let unsupported := fun (kind : BlockKind) =>
      exec (.snapload q kind bs) s = .next { s with err := s.err ||| 0x010, errSlot := q, res := 4 }
    let newer := 1 < (byteAt 1 bs).toNat ∨ ((byteAt 1 bs).toNat = 1 ∧ 0 < (byteAt 2 bs).toNat)
    let chipShape := bs.length = 24 ∧ byteAt 0 bs = 0x43 ∧ byteAt 7 bs &&& 0xE0 = 0 ∧ byteAt 8 bs &&& 0xE0 = 0 ∧
      byteAt 18 bs &&& 0xF8 = 0 ∧ byteAt 19 bs &&& 0xF0 = 0 ∧ byteAt 20 bs &&& 0xFC = 0 ∧ byteAt 21 bs &&& 0xF0 = 0
    let cb := s.params.clkW.bytes
    let o := 3 + cb + s.params.cpuRegsLen + s.params.lastopLen
    let pctxShape := bs.length = 8 + 3 * cb + s.params.cpuRegsLen + s.params.lastopLen + s.params.intstatLen
        + s.params.ramSize.read q ∧ byteAt 0 bs = 0x50 ∧ byteAt (o + 2 + 2 * cb) bs &&& 0xFE = 0 ∧
      (q = 0 → ∀ k, k < 5 + 2 * cb → byteAt (o + k) bs = 0)
    (¬ chipShape → malformed .chip) ∧ (chipShape → newer → unsupported .chip) ∧
      (¬ pctxShape → malformed .pctx) ∧ (pctxShape → newer → unsupported .pctx)

/-- 44_system_ops.md R267, 20_memory.md R81: a good chip block is applied whole, the slot's output becomes the effective output
of the loaded port, and the bus is recomputed with no edge delivered. -/
def Obligations.SnaploadAppliesAChipBlock : Prop :=
  ∀ (s : State) (q : Slot) (c : Chip) (major minor rmwVal paIn : Byte), s.err.getLsbD 0 = false →
    s.params.isPart q = true → major = 0 ∨ (major = 1 ∧ minor = 0) →
    ∃ t, exec (.snapload q .chip [0x43, major, minor, c.ora, c.orb, c.ddra, c.ddrb, c.ifr.setWidth 8, c.ier.setWidth 8,
        c.t1.latch.extractLsb' 0 8, c.t1.latch.extractLsb' 8 8, c.t1.count.extractLsb' 0 8, c.t1.count.extractLsb' 8 8,
        c.t2.latch.extractLsb' 0 8, c.t2.latch.extractLsb' 8 8, c.t2.count.extractLsb' 0 8, c.t2.count.extractLsb' 8 8,
        c.sr, c.srcnt.setWidth 8, c.cr.setWidth 8,
        (BitVec.ofBool c.t2.run ++ BitVec.ofBool c.t1.run).setWidth 8, c.cl.setWidth 8, rmwVal, paIn]) s = .next t ∧
      t.BusCoherent ∧
      t = { s.updPart q (fun x => { x with
        chip := c, rmwVal := rmwVal, paIn := paIn, out := (c.orb &&& c.ddrb) ||| ~~~c.ddrb }) with
          bus := t.bus, atn := t.atn, res := 0 }

/-- 44_system_ops.md R266, R267, R268; 20_memory.md R80, R82; 60_exceptions.md R309: a ProcessorContext block of a good shape
and a version up to 1.0 is applied whole: its clock-domain registers become the slot's, the host's its authoritative clock, and
the opaque fields are handed to the agent. So a block saved from one state and loaded into another with the same parameters
gives the slot the clock-domain registers it had, bit for bit, hands its agent the fields that were saved, and changes no other
register. That CpuLoad is recorded in the agent's past is log entry 10. -/
def Obligations.ProcessorContextRoundTrips : Prop :=
  (∀ (s : State) (q : Slot) (major minor : Byte) (f : CpuFields) (clk stop sync : Clock) (frac jamAddr : BitVec 16)
    (jam : Bool), s.err.getLsbD 0 = false → s.params.isPart q = true → major = 0 ∨ (major = 1 ∧ minor = 0) →
    f.cpuRegs.length = s.params.cpuRegsLen → f.lastOpcode.length = s.params.lastopLen →
    f.intStatus.length = s.params.intstatLen → f.ram.length = s.params.ramSize.read q →
    s.params.clockFits clk = true → s.params.clockFits stop = true → s.params.clockFits sync = true →
    let le := leBytes s.params.clkW.bytes
    let told := fun (a : Agent) => { a with history := .wasLoaded f :: a.history }
    (q = 0 → exec (.snapload q .pctx ([0x50, major, minor] ++ le clk.toNat ++ f.cpuRegs ++ f.lastOpcode
        ++ [0, 0] ++ le 0 ++ le 0 ++ [0, 0, 0] ++ f.intStatus ++ f.ram)) s
      = .next ({ s with authClk := clk, res := 0 }.updAgent q told)) ∧
    (q ≠ 0 → exec (.snapload q .pctx ([0x50, major, minor] ++ le clk.toNat ++ f.cpuRegs ++ f.lastOpcode
        ++ leBytes 2 frac.toNat ++ le stop.toNat ++ le sync.toNat ++ [if jam then 1 else 0] ++ leBytes 2 jamAddr.toNat
        ++ f.intStatus ++ f.ram)) s
      = .next (({ s with res := 0 }.updDrive q (fun r => { r with
          localClk := clk, frac := frac, stopClk := stop, lastSync := sync, jam := jam, jamAddr := jamAddr })).updAgent q
            told))) ∧
  ∀ (s t u : State) (q : Slot) (now : Clock), s.ClocksFit → s.err.getLsbD 0 = false → s.params.isPart q = true →
    exec (.snapsave q .pctx now) s = .next t → u.params = s.params → u.err.getLsbD 0 = false →
    ∃ v, exec (.snapload q .pctx t.sdat) u = .next v ∧
      v = { u with drives := v.drives, agents := v.agents, authClk := if q = 0 then t.authClk else u.authClk, res := 0 } ∧
      (∀ x, v.drive x = if x = q ∧ q ≠ 0 then
        { u.drive x with
          localClk := (t.drive x).localClk, frac := (t.drive x).frac, stopClk := (t.drive x).stopClk
          lastSync := (t.drive x).lastSync, jam := (t.drive x).jam, jamAddr := (t.drive x).jamAddr }
        else u.drive x) ∧
      ∀ x, v.agent x = if x = q then { u.agent q with history := .wasLoaded (t.cpuSave q) :: (u.agent q).history }
        else u.agent x

/-- 44_system_ops.md R266, R267, R268; 20_memory.md R81: a chip saved from one state and loaded into another comes back bit for
bit, its read latch and its port A input with it. -/
def Obligations.ChipStateRoundTrips : Prop :=
  ∀ (s t u : State) (q : Slot) (now : Clock), s.err.getLsbD 0 = false → s.params.isPart q = true →
    exec (.snapsave q .chip now) s = .next t → u.params = s.params → u.err.getLsbD 0 = false →
    ∃ v, exec (.snapload q .chip t.sdat) u = .next v ∧ v.BusCoherent ∧
      v = { u.updPart q (fun x => { x with
        chip := t.chip q, rmwVal := (t.part q).rmwVal, paIn := (t.part q).paIn
        out := ((t.chip q).orb &&& (t.chip q).ddrb) ||| ~~~(t.chip q).ddrb }) with
          bus := v.bus, atn := v.atn, res := 0 }
end

