-- ==== Sys2Proof/Laws/State.lean ====
section
/-! SUPPORT. Reading back what an update wrote: banks, and one lemma for each field of State and each update of it, so that
no later proof unfolds an update. -/

namespace Sys2Proof

@[simp] theorem Bank.read_write_same {α : Type} (b : Bank α) (p : Slot) (x : α) : (b.write p x).read p = x := by
  simp [Bank.read, Bank.write]

theorem Bank.read_write_ne {α : Type} (b : Bank α) {p q : Slot} (x : α) (h : q ≠ p) :
    (b.write p x).read q = b.read q := by
  have : p.toNat ≠ q.toNat := fun e => h (BitVec.eq_of_toNat_eq e.symm)
  simp [Bank.read, Bank.write, this]

theorem Bank.read_write {α : Type} (b : Bank α) (p q : Slot) (x : α) :
    (b.write p x).read q = if q = p then x else b.read q := by
  by_cases h : q = p
  · simp [h]
  · simp [h, Bank.read_write_ne]

@[simp] theorem Bank.read_fill {α : Type} (x : α) (p : Slot) : (Bank.fill x).read p = x := by
  simp [Bank.read, Bank.fill]

/-- Two banks that read alike at every slot are equal. -/
theorem Bank.ext_read {α : Type} {a b : Bank α} (h : ∀ p, a.read p = b.read p) : a = b := by
  apply Vector.ext
  intro i hi
  have := h (BitVec.ofNat 4 i)
  have hm : i % 16 = i := Nat.mod_eq_of_lt hi
  simpa [Bank.read, hm] using this

@[simp] theorem Bank.write_read_self {α : Type} (b : Bank α) (p : Slot) : b.write p (b.read p) = b :=
  Bank.ext_read fun q => by by_cases h : q = p <;> simp [Bank.read_write, h]

@[simp] theorem Bank.write_write_same {α : Type} (b : Bank α) (p : Slot) (x y : α) :
    (b.write p x).write p y = b.write p y :=
  Bank.ext_read fun q => by by_cases h : q = p <;> simp [Bank.read_write, h]

end Sys2Proof

namespace Sys2Proof.Machine

@[simp] theorem State.updDrive_params (st : State) (s : Slot) (f : Drive → Drive) : (st.updDrive s f).params = st.params := rfl
@[simp] theorem State.updDrive_port (st : State) (s : Slot) (f : Drive → Drive) : (st.updDrive s f).port = st.port := rfl
@[simp] theorem State.updDrive_sdat (st : State) (s : Slot) (f : Drive → Drive) : (st.updDrive s f).sdat = st.sdat := rfl
@[simp] theorem State.updDrive_fDrive (st : State) (s : Slot) (f : Drive → Drive) : (st.updDrive s f).fDrive = st.fDrive := rfl
@[simp] theorem State.updDrive_parts (st : State) (s : Slot) (f : Drive → Drive) : (st.updDrive s f).parts = st.parts := rfl
@[simp] theorem State.updDrive_agents (st : State) (s : Slot) (f : Drive → Drive) : (st.updDrive s f).agents = st.agents := rfl
@[simp] theorem State.updDrive_authClk (st : State) (s : Slot) (f : Drive → Drive) : (st.updDrive s f).authClk = st.authClk := rfl
@[simp] theorem State.updDrive_bus (st : State) (s : Slot) (f : Drive → Drive) : (st.updDrive s f).bus = st.bus := rfl
@[simp] theorem State.updDrive_atn (st : State) (s : Slot) (f : Drive → Drive) : (st.updDrive s f).atn = st.atn := rfl
@[simp] theorem State.updDrive_err (st : State) (s : Slot) (f : Drive → Drive) : (st.updDrive s f).err = st.err := rfl
@[simp] theorem State.updDrive_errSlot (st : State) (s : Slot) (f : Drive → Drive) : (st.updDrive s f).errSlot = st.errSlot := rfl
@[simp] theorem State.updDrive_res (st : State) (s : Slot) (f : Drive → Drive) : (st.updDrive s f).res = st.res := rfl
@[simp] theorem State.updDrive_part (st : State) (s : Slot) (f : Drive → Drive) (y : Slot) : (st.updDrive s f).part y = st.part y := rfl
@[simp] theorem State.updDrive_chip (st : State) (s : Slot) (f : Drive → Drive) (y : Slot) : (st.updDrive s f).chip y = st.chip y := rfl
@[simp] theorem State.updDrive_agent (st : State) (s : Slot) (f : Drive → Drive) (y : Slot) : (st.updDrive s f).agent y = st.agent y := rfl

@[simp] theorem State.updPart_params (st : State) (p : Slot) (f : Part → Part) : (st.updPart p f).params = st.params := rfl
@[simp] theorem State.updPart_port (st : State) (p : Slot) (f : Part → Part) : (st.updPart p f).port = st.port := rfl
@[simp] theorem State.updPart_sdat (st : State) (p : Slot) (f : Part → Part) : (st.updPart p f).sdat = st.sdat := rfl
@[simp] theorem State.updPart_fDrive (st : State) (p : Slot) (f : Part → Part) : (st.updPart p f).fDrive = st.fDrive := rfl
@[simp] theorem State.updPart_drives (st : State) (p : Slot) (f : Part → Part) : (st.updPart p f).drives = st.drives := rfl
@[simp] theorem State.updPart_agents (st : State) (p : Slot) (f : Part → Part) : (st.updPart p f).agents = st.agents := rfl
@[simp] theorem State.updPart_authClk (st : State) (p : Slot) (f : Part → Part) : (st.updPart p f).authClk = st.authClk := rfl
@[simp] theorem State.updPart_bus (st : State) (p : Slot) (f : Part → Part) : (st.updPart p f).bus = st.bus := rfl
@[simp] theorem State.updPart_atn (st : State) (p : Slot) (f : Part → Part) : (st.updPart p f).atn = st.atn := rfl
@[simp] theorem State.updPart_err (st : State) (p : Slot) (f : Part → Part) : (st.updPart p f).err = st.err := rfl
@[simp] theorem State.updPart_errSlot (st : State) (p : Slot) (f : Part → Part) : (st.updPart p f).errSlot = st.errSlot := rfl
@[simp] theorem State.updPart_res (st : State) (p : Slot) (f : Part → Part) : (st.updPart p f).res = st.res := rfl
@[simp] theorem State.updPart_drive (st : State) (p : Slot) (f : Part → Part) (y : Slot) : (st.updPart p f).drive y = st.drive y := rfl
@[simp] theorem State.updPart_agent (st : State) (p : Slot) (f : Part → Part) (y : Slot) : (st.updPart p f).agent y = st.agent y := rfl

@[simp] theorem State.updChip_params (st : State) (p : Slot) (f : Chip → Chip) : (st.updChip p f).params = st.params := rfl
@[simp] theorem State.updChip_port (st : State) (p : Slot) (f : Chip → Chip) : (st.updChip p f).port = st.port := rfl
@[simp] theorem State.updChip_sdat (st : State) (p : Slot) (f : Chip → Chip) : (st.updChip p f).sdat = st.sdat := rfl
@[simp] theorem State.updChip_fDrive (st : State) (p : Slot) (f : Chip → Chip) : (st.updChip p f).fDrive = st.fDrive := rfl
@[simp] theorem State.updChip_drives (st : State) (p : Slot) (f : Chip → Chip) : (st.updChip p f).drives = st.drives := rfl
@[simp] theorem State.updChip_agents (st : State) (p : Slot) (f : Chip → Chip) : (st.updChip p f).agents = st.agents := rfl
@[simp] theorem State.updChip_authClk (st : State) (p : Slot) (f : Chip → Chip) : (st.updChip p f).authClk = st.authClk := rfl
@[simp] theorem State.updChip_bus (st : State) (p : Slot) (f : Chip → Chip) : (st.updChip p f).bus = st.bus := rfl
@[simp] theorem State.updChip_atn (st : State) (p : Slot) (f : Chip → Chip) : (st.updChip p f).atn = st.atn := rfl
@[simp] theorem State.updChip_err (st : State) (p : Slot) (f : Chip → Chip) : (st.updChip p f).err = st.err := rfl
@[simp] theorem State.updChip_errSlot (st : State) (p : Slot) (f : Chip → Chip) : (st.updChip p f).errSlot = st.errSlot := rfl
@[simp] theorem State.updChip_res (st : State) (p : Slot) (f : Chip → Chip) : (st.updChip p f).res = st.res := rfl
@[simp] theorem State.updChip_drive (st : State) (p : Slot) (f : Chip → Chip) (y : Slot) : (st.updChip p f).drive y = st.drive y := rfl
@[simp] theorem State.updChip_agent (st : State) (p : Slot) (f : Chip → Chip) (y : Slot) : (st.updChip p f).agent y = st.agent y := rfl

@[simp] theorem State.updAgent_params (st : State) (q : Slot) (f : Agent → Agent) : (st.updAgent q f).params = st.params := rfl
@[simp] theorem State.updAgent_port (st : State) (q : Slot) (f : Agent → Agent) : (st.updAgent q f).port = st.port := rfl
@[simp] theorem State.updAgent_sdat (st : State) (q : Slot) (f : Agent → Agent) : (st.updAgent q f).sdat = st.sdat := rfl
@[simp] theorem State.updAgent_fDrive (st : State) (q : Slot) (f : Agent → Agent) : (st.updAgent q f).fDrive = st.fDrive := rfl
@[simp] theorem State.updAgent_drives (st : State) (q : Slot) (f : Agent → Agent) : (st.updAgent q f).drives = st.drives := rfl
@[simp] theorem State.updAgent_parts (st : State) (q : Slot) (f : Agent → Agent) : (st.updAgent q f).parts = st.parts := rfl
@[simp] theorem State.updAgent_authClk (st : State) (q : Slot) (f : Agent → Agent) : (st.updAgent q f).authClk = st.authClk := rfl
@[simp] theorem State.updAgent_bus (st : State) (q : Slot) (f : Agent → Agent) : (st.updAgent q f).bus = st.bus := rfl
@[simp] theorem State.updAgent_atn (st : State) (q : Slot) (f : Agent → Agent) : (st.updAgent q f).atn = st.atn := rfl
@[simp] theorem State.updAgent_err (st : State) (q : Slot) (f : Agent → Agent) : (st.updAgent q f).err = st.err := rfl
@[simp] theorem State.updAgent_errSlot (st : State) (q : Slot) (f : Agent → Agent) : (st.updAgent q f).errSlot = st.errSlot := rfl
@[simp] theorem State.updAgent_res (st : State) (q : Slot) (f : Agent → Agent) : (st.updAgent q f).res = st.res := rfl
@[simp] theorem State.updAgent_drive (st : State) (q : Slot) (f : Agent → Agent) (y : Slot) : (st.updAgent q f).drive y = st.drive y := rfl
@[simp] theorem State.updAgent_part (st : State) (q : Slot) (f : Agent → Agent) (y : Slot) : (st.updAgent q f).part y = st.part y := rfl
@[simp] theorem State.updAgent_chip (st : State) (q : Slot) (f : Agent → Agent) (y : Slot) : (st.updAgent q f).chip y = st.chip y := rfl

@[simp] theorem State.tell_params (st : State) (q : Slot) (e : CpuEvent) : (st.tell q e).params = st.params := rfl
@[simp] theorem State.tell_port (st : State) (q : Slot) (e : CpuEvent) : (st.tell q e).port = st.port := rfl
@[simp] theorem State.tell_sdat (st : State) (q : Slot) (e : CpuEvent) : (st.tell q e).sdat = st.sdat := rfl
@[simp] theorem State.tell_fDrive (st : State) (q : Slot) (e : CpuEvent) : (st.tell q e).fDrive = st.fDrive := rfl
@[simp] theorem State.tell_drives (st : State) (q : Slot) (e : CpuEvent) : (st.tell q e).drives = st.drives := rfl
@[simp] theorem State.tell_parts (st : State) (q : Slot) (e : CpuEvent) : (st.tell q e).parts = st.parts := rfl
@[simp] theorem State.tell_authClk (st : State) (q : Slot) (e : CpuEvent) : (st.tell q e).authClk = st.authClk := rfl
@[simp] theorem State.tell_bus (st : State) (q : Slot) (e : CpuEvent) : (st.tell q e).bus = st.bus := rfl
@[simp] theorem State.tell_atn (st : State) (q : Slot) (e : CpuEvent) : (st.tell q e).atn = st.atn := rfl
@[simp] theorem State.tell_err (st : State) (q : Slot) (e : CpuEvent) : (st.tell q e).err = st.err := rfl
@[simp] theorem State.tell_errSlot (st : State) (q : Slot) (e : CpuEvent) : (st.tell q e).errSlot = st.errSlot := rfl
@[simp] theorem State.tell_res (st : State) (q : Slot) (e : CpuEvent) : (st.tell q e).res = st.res := rfl
@[simp] theorem State.tell_drive (st : State) (q : Slot) (e : CpuEvent) (y : Slot) : (st.tell q e).drive y = st.drive y := rfl
@[simp] theorem State.tell_part (st : State) (q : Slot) (e : CpuEvent) (y : Slot) : (st.tell q e).part y = st.part y := rfl
@[simp] theorem State.tell_chip (st : State) (q : Slot) (e : CpuEvent) (y : Slot) : (st.tell q e).chip y = st.chip y := rfl

@[simp] theorem State.chipTick_params (st : State) (p : Slot) (n : Nat) : (st.chipTick p n).params = st.params := rfl
@[simp] theorem State.chipTick_port (st : State) (p : Slot) (n : Nat) : (st.chipTick p n).port = st.port := rfl
@[simp] theorem State.chipTick_sdat (st : State) (p : Slot) (n : Nat) : (st.chipTick p n).sdat = st.sdat := rfl
@[simp] theorem State.chipTick_fDrive (st : State) (p : Slot) (n : Nat) : (st.chipTick p n).fDrive = st.fDrive := rfl
@[simp] theorem State.chipTick_drives (st : State) (p : Slot) (n : Nat) : (st.chipTick p n).drives = st.drives := rfl
@[simp] theorem State.chipTick_agents (st : State) (p : Slot) (n : Nat) : (st.chipTick p n).agents = st.agents := rfl
@[simp] theorem State.chipTick_authClk (st : State) (p : Slot) (n : Nat) : (st.chipTick p n).authClk = st.authClk := rfl
@[simp] theorem State.chipTick_bus (st : State) (p : Slot) (n : Nat) : (st.chipTick p n).bus = st.bus := rfl
@[simp] theorem State.chipTick_atn (st : State) (p : Slot) (n : Nat) : (st.chipTick p n).atn = st.atn := rfl
@[simp] theorem State.chipTick_err (st : State) (p : Slot) (n : Nat) : (st.chipTick p n).err = st.err := rfl
@[simp] theorem State.chipTick_errSlot (st : State) (p : Slot) (n : Nat) : (st.chipTick p n).errSlot = st.errSlot := rfl
@[simp] theorem State.chipTick_res (st : State) (p : Slot) (n : Nat) : (st.chipTick p n).res = st.res := rfl
@[simp] theorem State.chipTick_drive (st : State) (p : Slot) (n : Nat) (y : Slot) : (st.chipTick p n).drive y = st.drive y := rfl
@[simp] theorem State.chipTick_agent (st : State) (p : Slot) (n : Nat) (y : Slot) : (st.chipTick p n).agent y = st.agent y := rfl

@[simp] theorem State.chipSignal_params (st : State) (p : Slot) (l : ControlLine) (e : Edge) : (st.chipSignal p l e).params = st.params := rfl
@[simp] theorem State.chipSignal_port (st : State) (p : Slot) (l : ControlLine) (e : Edge) : (st.chipSignal p l e).port = st.port := rfl
@[simp] theorem State.chipSignal_sdat (st : State) (p : Slot) (l : ControlLine) (e : Edge) : (st.chipSignal p l e).sdat = st.sdat := rfl
@[simp] theorem State.chipSignal_fDrive (st : State) (p : Slot) (l : ControlLine) (e : Edge) : (st.chipSignal p l e).fDrive = st.fDrive := rfl
@[simp] theorem State.chipSignal_drives (st : State) (p : Slot) (l : ControlLine) (e : Edge) : (st.chipSignal p l e).drives = st.drives := rfl
@[simp] theorem State.chipSignal_agents (st : State) (p : Slot) (l : ControlLine) (e : Edge) : (st.chipSignal p l e).agents = st.agents := rfl
@[simp] theorem State.chipSignal_authClk (st : State) (p : Slot) (l : ControlLine) (e : Edge) : (st.chipSignal p l e).authClk = st.authClk := rfl
@[simp] theorem State.chipSignal_bus (st : State) (p : Slot) (l : ControlLine) (e : Edge) : (st.chipSignal p l e).bus = st.bus := rfl
@[simp] theorem State.chipSignal_atn (st : State) (p : Slot) (l : ControlLine) (e : Edge) : (st.chipSignal p l e).atn = st.atn := rfl
@[simp] theorem State.chipSignal_err (st : State) (p : Slot) (l : ControlLine) (e : Edge) : (st.chipSignal p l e).err = st.err := rfl
@[simp] theorem State.chipSignal_errSlot (st : State) (p : Slot) (l : ControlLine) (e : Edge) : (st.chipSignal p l e).errSlot = st.errSlot := rfl
@[simp] theorem State.chipSignal_res (st : State) (p : Slot) (l : ControlLine) (e : Edge) : (st.chipSignal p l e).res = st.res := rfl
@[simp] theorem State.chipSignal_drive (st : State) (p : Slot) (l : ControlLine) (e : Edge) (y : Slot) : (st.chipSignal p l e).drive y = st.drive y := rfl
@[simp] theorem State.chipSignal_agent (st : State) (p : Slot) (l : ControlLine) (e : Edge) (y : Slot) : (st.chipSignal p l e).agent y = st.agent y := rfl

@[simp] theorem State.chipReset_params (st : State) (p : Slot) : (st.chipReset p).params = st.params := rfl
@[simp] theorem State.chipReset_port (st : State) (p : Slot) : (st.chipReset p).port = st.port := rfl
@[simp] theorem State.chipReset_sdat (st : State) (p : Slot) : (st.chipReset p).sdat = st.sdat := rfl
@[simp] theorem State.chipReset_fDrive (st : State) (p : Slot) : (st.chipReset p).fDrive = st.fDrive := rfl
@[simp] theorem State.chipReset_drives (st : State) (p : Slot) : (st.chipReset p).drives = st.drives := rfl
@[simp] theorem State.chipReset_agents (st : State) (p : Slot) : (st.chipReset p).agents = st.agents := rfl
@[simp] theorem State.chipReset_authClk (st : State) (p : Slot) : (st.chipReset p).authClk = st.authClk := rfl
@[simp] theorem State.chipReset_bus (st : State) (p : Slot) : (st.chipReset p).bus = st.bus := rfl
@[simp] theorem State.chipReset_atn (st : State) (p : Slot) : (st.chipReset p).atn = st.atn := rfl
@[simp] theorem State.chipReset_err (st : State) (p : Slot) : (st.chipReset p).err = st.err := rfl
@[simp] theorem State.chipReset_errSlot (st : State) (p : Slot) : (st.chipReset p).errSlot = st.errSlot := rfl
@[simp] theorem State.chipReset_res (st : State) (p : Slot) : (st.chipReset p).res = st.res := rfl
@[simp] theorem State.chipReset_drive (st : State) (p : Slot) (y : Slot) : (st.chipReset p).drive y = st.drive y := rfl
@[simp] theorem State.chipReset_agent (st : State) (p : Slot) (y : Slot) : (st.chipReset p).agent y = st.agent y := rfl

@[simp] theorem State.raise_params (st : State) (c : Condition) (x : Slot) : (st.raise c x).params = st.params := rfl
@[simp] theorem State.raise_port (st : State) (c : Condition) (x : Slot) : (st.raise c x).port = st.port := rfl
@[simp] theorem State.raise_sdat (st : State) (c : Condition) (x : Slot) : (st.raise c x).sdat = st.sdat := rfl
@[simp] theorem State.raise_fDrive (st : State) (c : Condition) (x : Slot) : (st.raise c x).fDrive = st.fDrive := rfl
@[simp] theorem State.raise_drives (st : State) (c : Condition) (x : Slot) : (st.raise c x).drives = st.drives := rfl
@[simp] theorem State.raise_parts (st : State) (c : Condition) (x : Slot) : (st.raise c x).parts = st.parts := rfl
@[simp] theorem State.raise_agents (st : State) (c : Condition) (x : Slot) : (st.raise c x).agents = st.agents := rfl
@[simp] theorem State.raise_authClk (st : State) (c : Condition) (x : Slot) : (st.raise c x).authClk = st.authClk := rfl
@[simp] theorem State.raise_bus (st : State) (c : Condition) (x : Slot) : (st.raise c x).bus = st.bus := rfl
@[simp] theorem State.raise_atn (st : State) (c : Condition) (x : Slot) : (st.raise c x).atn = st.atn := rfl
@[simp] theorem State.raise_res (st : State) (c : Condition) (x : Slot) : (st.raise c x).res = st.res := rfl
@[simp] theorem State.raise_drive (st : State) (c : Condition) (x : Slot) (y : Slot) : (st.raise c x).drive y = st.drive y := rfl
@[simp] theorem State.raise_part (st : State) (c : Condition) (x : Slot) (y : Slot) : (st.raise c x).part y = st.part y := rfl
@[simp] theorem State.raise_chip (st : State) (c : Condition) (x : Slot) (y : Slot) : (st.raise c x).chip y = st.chip y := rfl
@[simp] theorem State.raise_agent (st : State) (c : Condition) (x : Slot) (y : Slot) : (st.raise c x).agent y = st.agent y := rfl

@[simp] theorem State.setRes_params (st : State) (v : Nat) : (st.setRes v).params = st.params := rfl
@[simp] theorem State.setRes_port (st : State) (v : Nat) : (st.setRes v).port = st.port := rfl
@[simp] theorem State.setRes_sdat (st : State) (v : Nat) : (st.setRes v).sdat = st.sdat := rfl
@[simp] theorem State.setRes_fDrive (st : State) (v : Nat) : (st.setRes v).fDrive = st.fDrive := rfl
@[simp] theorem State.setRes_drives (st : State) (v : Nat) : (st.setRes v).drives = st.drives := rfl
@[simp] theorem State.setRes_parts (st : State) (v : Nat) : (st.setRes v).parts = st.parts := rfl
@[simp] theorem State.setRes_agents (st : State) (v : Nat) : (st.setRes v).agents = st.agents := rfl
@[simp] theorem State.setRes_authClk (st : State) (v : Nat) : (st.setRes v).authClk = st.authClk := rfl
@[simp] theorem State.setRes_bus (st : State) (v : Nat) : (st.setRes v).bus = st.bus := rfl
@[simp] theorem State.setRes_atn (st : State) (v : Nat) : (st.setRes v).atn = st.atn := rfl
@[simp] theorem State.setRes_err (st : State) (v : Nat) : (st.setRes v).err = st.err := rfl
@[simp] theorem State.setRes_errSlot (st : State) (v : Nat) : (st.setRes v).errSlot = st.errSlot := rfl
@[simp] theorem State.setRes_drive (st : State) (v : Nat) (y : Slot) : (st.setRes v).drive y = st.drive y := rfl
@[simp] theorem State.setRes_part (st : State) (v : Nat) (y : Slot) : (st.setRes v).part y = st.part y := rfl
@[simp] theorem State.setRes_chip (st : State) (v : Nat) (y : Slot) : (st.setRes v).chip y = st.chip y := rfl
@[simp] theorem State.setRes_agent (st : State) (v : Nat) (y : Slot) : (st.setRes v).agent y = st.agent y := rfl

@[simp] theorem State.resolveSilently_params (st : State) : st.resolveSilently.params = st.params := rfl
@[simp] theorem State.resolveSilently_port (st : State) : st.resolveSilently.port = st.port := rfl
@[simp] theorem State.resolveSilently_sdat (st : State) : st.resolveSilently.sdat = st.sdat := rfl
@[simp] theorem State.resolveSilently_fDrive (st : State) : st.resolveSilently.fDrive = st.fDrive := rfl
@[simp] theorem State.resolveSilently_drives (st : State) : st.resolveSilently.drives = st.drives := rfl
@[simp] theorem State.resolveSilently_parts (st : State) : st.resolveSilently.parts = st.parts := rfl
@[simp] theorem State.resolveSilently_agents (st : State) : st.resolveSilently.agents = st.agents := rfl
@[simp] theorem State.resolveSilently_authClk (st : State) : st.resolveSilently.authClk = st.authClk := rfl
@[simp] theorem State.resolveSilently_err (st : State) : st.resolveSilently.err = st.err := rfl
@[simp] theorem State.resolveSilently_errSlot (st : State) : st.resolveSilently.errSlot = st.errSlot := rfl
@[simp] theorem State.resolveSilently_res (st : State) : st.resolveSilently.res = st.res := rfl
@[simp] theorem State.resolveSilently_drive (st : State) (y : Slot) : st.resolveSilently.drive y = st.drive y := rfl
@[simp] theorem State.resolveSilently_part (st : State) (y : Slot) : st.resolveSilently.part y = st.part y := rfl
@[simp] theorem State.resolveSilently_chip (st : State) (y : Slot) : st.resolveSilently.chip y = st.chip y := rfl
@[simp] theorem State.resolveSilently_agent (st : State) (y : Slot) : st.resolveSilently.agent y = st.agent y := rfl

/-! What the changed entry reads as, and what the others do. -/

@[simp] theorem State.updDrive_drive_same (st : State) (s : Slot) (f : Drive → Drive) :
    (st.updDrive s f).drive s = f (st.drive s) := by simp [State.updDrive, State.drive]

theorem State.updDrive_drive (st : State) (s y : Slot) (f : Drive → Drive) :
    (st.updDrive s f).drive y = if y = s then f (st.drive s) else st.drive y := by
  simp [State.updDrive, State.drive, Bank.read_write]

theorem State.updDrive_drive_ne (st : State) {s y : Slot} (f : Drive → Drive) (h : y ≠ s) :
    (st.updDrive s f).drive y = st.drive y := by simp [State.updDrive_drive, h]

@[simp] theorem State.updPart_part_same (st : State) (p : Slot) (f : Part → Part) :
    (st.updPart p f).part p = f (st.part p) := by simp [State.updPart, State.part]

theorem State.updPart_part (st : State) (p y : Slot) (f : Part → Part) :
    (st.updPart p f).part y = if y = p then f (st.part p) else st.part y := by
  simp [State.updPart, State.part, Bank.read_write]

theorem State.updPart_part_ne (st : State) {p y : Slot} (f : Part → Part) (h : y ≠ p) :
    (st.updPart p f).part y = st.part y := by simp [State.updPart_part, h]

@[simp] theorem State.updPart_chip_same (st : State) (p : Slot) (f : Part → Part) :
    (st.updPart p f).chip p = (f (st.part p)).chip := by simp [State.chip]

@[simp] theorem State.updChip_part_same (st : State) (p : Slot) (f : Chip → Chip) :
    (st.updChip p f).part p = { st.part p with chip := f (st.chip p) } := by simp [State.updChip, State.chip]

theorem State.updChip_part (st : State) (p y : Slot) (f : Chip → Chip) :
    (st.updChip p f).part y = if y = p then { st.part p with chip := f (st.chip p) } else st.part y := by
  simp [State.updChip, State.updPart_part, State.chip]

theorem State.updChip_part_ne (st : State) {p y : Slot} (f : Chip → Chip) (h : y ≠ p) :
    (st.updChip p f).part y = st.part y := by simp [State.updChip_part, h]

@[simp] theorem State.updChip_chip_same (st : State) (p : Slot) (f : Chip → Chip) :
    (st.updChip p f).chip p = f (st.chip p) := by simp [State.chip]

theorem State.updChip_chip (st : State) (p y : Slot) (f : Chip → Chip) :
    (st.updChip p f).chip y = if y = p then f (st.chip p) else st.chip y := by
  by_cases h : y = p <;> simp [State.chip, State.updChip_part, h]

@[simp] theorem State.updAgent_agent_same (st : State) (q : Slot) (f : Agent → Agent) :
    (st.updAgent q f).agent q = f (st.agent q) := by simp [State.updAgent, State.agent]

theorem State.updAgent_agent (st : State) (q y : Slot) (f : Agent → Agent) :
    (st.updAgent q f).agent y = if y = q then f (st.agent q) else st.agent y := by
  simp [State.updAgent, State.agent, Bank.read_write]

theorem State.updAgent_agent_ne (st : State) {q y : Slot} (f : Agent → Agent) (h : y ≠ q) :
    (st.updAgent q f).agent y = st.agent y := by simp [State.updAgent_agent, h]

@[simp] theorem State.raise_err (st : State) (c : Condition) (x : Slot) : (st.raise c x).err = st.err ||| c.bits := rfl
@[simp] theorem State.raise_errSlot (st : State) (c : Condition) (x : Slot) : (st.raise c x).errSlot = x := rfl

@[simp] theorem State.setRes_res (st : State) (v : Nat) :
    (st.setRes v).res = st.params.wrap (BitVec.ofNat 64 v) := rfl

/-- Two states that agree on every register and every entry of every bank are equal. -/
theorem State.ext_read {s t : State} (params : s.params = t.params) (port : s.port = t.port) (sdat : s.sdat = t.sdat)
    (fDrive : s.fDrive = t.fDrive) (drive : ∀ x, s.drive x = t.drive x) (part : ∀ p, s.part p = t.part p)
    (agent : ∀ q, s.agent q = t.agent q) (authClk : s.authClk = t.authClk) (bus : s.bus = t.bus) (atn : s.atn = t.atn)
    (err : s.err = t.err) (errSlot : s.errSlot = t.errSlot) (res : s.res = t.res) : s = t := by
  have hd : s.drives = t.drives := Bank.ext_read drive
  have hp : s.parts = t.parts := Bank.ext_read part
  have ha : s.agents = t.agents := Bank.ext_read agent
  cases s
  cases t
  simp_all

end Sys2Proof.Machine
end

