-- ==== Sys2Proof/Laws/Ops.lean ====
section
/-! SUPPORT. One lemma for each shared operation that says what it can do, so that later proofs cite it and do not unfold it:
slot lists, command wrappers, resolution and edge delivery. -/

namespace Sys2Proof

theorem mem_allSlots (p : Slot) : p ∈ allSlots := by revert p; decide

theorem Params.mem_driveSlots (P : Params) (s : Slot) : s ∈ P.driveSlots ↔ P.isDrive s = true := by
  simp [Params.driveSlots, mem_allSlots]

theorem Params.mem_participants (P : Params) (p : Slot) : p ∈ P.participants ↔ P.isPart p = true := by
  simp [Params.participants, mem_allSlots]

theorem Params.driveSlots_nodup (P : Params) : P.driveSlots.Nodup :=
  List.Nodup.filter _ (by decide)

theorem Params.participants_nodup (P : Params) : P.participants.Nodup :=
  List.Nodup.filter _ (by decide)

theorem Params.isDrive_ne_zero {P : Params} {s : Slot} (h : P.isDrive s = true) : s ≠ 0 := by
  rintro rfl
  simp [Params.isDrive] at h

theorem Params.isPart_of_isDrive {P : Params} {s : Slot} (h : P.isDrive s = true) : P.isPart s = true := by
  simp only [Params.isDrive, Params.isPart, Bool.and_eq_true, decide_eq_true_eq] at *
  exact h.2

@[simp] theorem Params.wrap_wrap (P : Params) (c : Clock) : P.wrap (P.wrap c) = P.wrap c := by
  unfold Params.wrap
  cases P.clkW <;> simp [BitVec.and_assoc]

theorem Params.wrap_toNat (P : Params) (c : Clock) : (P.wrap c).toNat = c.toNat % 2 ^ P.clkW.bits := by
  unfold Params.wrap ClockWidth.bits
  cases P.clkW
  · simp only [BitVec.toNat_and]
    exact Nat.and_two_pow_sub_one_eq_mod c.toNat 32
  · exact (Nat.mod_eq_of_lt c.isLt).symm

@[simp] theorem Params.wrap_fits (P : Params) (c : Clock) : P.clockFits (P.wrap c) = true := by
  have h : 0 < 2 ^ P.clkW.bits := Nat.two_pow_pos _
  simp [Params.clockFits, Params.wrap_toNat, Nat.mod_lt _ h]

theorem Params.wrap_of_fits {P : Params} {c : Clock} (h : P.clockFits c = true) : P.wrap c = c := by
  apply BitVec.eq_of_toNat_eq
  rw [Params.wrap_toNat, Nat.mod_eq_of_lt]
  simpa [Params.clockFits] using h

@[simp] theorem Params.sdiff_self (P : Params) (a : Clock) : P.sdiff a a = 0 := by
  unfold Params.sdiff
  cases P.clkW <;> simp

end Sys2Proof

namespace Sys2Proof.Machine

/-! The command wrappers. -/

theorem command_live {st : State} (h : st.fatal = false) (f : State → State) : command st f = .next (f st) := by
  simp [command, h]

theorem command_fatal {st : State} (h : st.fatal = true) (f : State → State) : command st f = .next st := by
  simp [command, h]

theorem driveCommand_live {st : State} {s : Slot} (h : st.fatal = false) (hs : st.params.isDrive s = true)
    (f : State → State) : driveCommand st s f = .next (f st) := by
  simp [driveCommand, slotCommand, command, h, hs]

theorem partCommand_live {st : State} {p : Slot} (h : st.fatal = false) (hp : st.params.isPart p = true)
    (f : State → State) : partCommand st p f = .next (f st) := by
  simp [partCommand, slotCommand, command, h, hp]

/-- What a drive command can do: nothing in the fatal state, raise SlotOutOfRange, or its effect. -/
theorem driveCommand_cases {st t : State} {s : Slot} {f : State → State} (h : driveCommand st s f = .next t) :
    (st.fatal = true ∧ t = st) ∨
      (st.fatal = false ∧ st.params.isDrive s = false ∧ t = st.raise .slotOutOfRange s) ∨
      (st.fatal = false ∧ st.params.isDrive s = true ∧ t = f st) := by
  unfold driveCommand slotCommand command at h
  cases hf : st.fatal <;> cases hs : st.params.isDrive s <;> simp_all

/-- What a participant command can do: nothing in the fatal state, raise SlotOutOfRange, or its effect. -/
theorem partCommand_cases {st t : State} {p : Slot} {f : State → State} (h : partCommand st p f = .next t) :
    (st.fatal = true ∧ t = st) ∨
      (st.fatal = false ∧ st.params.isPart p = false ∧ t = st.raise .slotOutOfRange p) ∨
      (st.fatal = false ∧ st.params.isPart p = true ∧ t = f st) := by
  unfold partCommand slotCommand command at h
  cases hf : st.fatal <;> cases hs : st.params.isPart p <;> simp_all

/-- What a command without a slot can do: nothing in the fatal state, or its effect. -/
theorem command_cases {st t : State} {f : State → State} (h : command st f = .next t) :
    (st.fatal = true ∧ t = st) ∨ (st.fatal = false ∧ t = f st) := by
  unfold command at h
  cases hf : st.fatal <;> simp_all

/-! Attachment and the wired AND look at no chip. -/

theorem State.mem_attachedSlots (st : State) (p : Slot) :
    p ∈ st.attachedSlots ↔ st.params.isPart p = true ∧ st.attached p = true := by
  simp [State.attachedSlots, Params.mem_participants]

theorem State.attachedSlots_nodup (st : State) : st.attachedSlots.Nodup :=
  List.Nodup.filter _ (Params.participants_nodup _)

/-- Attachment depends on the parameters and the enable bits only. -/
theorem State.attachedSlots_congr {s t : State} (hp : t.params = s.params)
    (hen : ∀ x, (t.drive x).en = (s.drive x).en) : t.attachedSlots = s.attachedSlots := by
  have : t.attached = s.attached := by
    funext p
    simp [State.attached, hen]
  simp [State.attachedSlots, hp, this]

/-- The wired AND depends on the parameters, the enable bits, the outputs and the modes only. -/
theorem State.wiredAnd_congr {s t : State} (hp : t.params = s.params)
    (hen : ∀ x, (t.drive x).en = (s.drive x).en)
    (hpart : ∀ p, (t.part p).out = (s.part p).out ∧ (t.part p).mode = (s.part p).mode) :
    t.wiredAnd = s.wiredAnd := by
  have hc : (fun (acc : Byte) p => acc &&& contrib t.params (t.part p))
      = fun (acc : Byte) p => acc &&& contrib s.params (s.part p) := by
    funext acc p
    simp [contrib, hp, (hpart p).1, (hpart p).2]
  simp only [State.wiredAnd, State.attachedSlots_congr hp hen, hc]

/-! Edge delivery and resolution. -/

/-- Changing the chips of a list of slots one after the other: every other field and every slot outside stays. -/
theorem foldl_updChip_frame (f : Chip → Chip) (l : List Slot) (st : State) :
    let t := l.foldl (fun s p => s.updChip p f) st
    t = { st with parts := t.parts } ∧ ∀ p, p ∉ l → t.part p = st.part p := by
  induction l generalizing st with
  | nil => simp
  | cons a l ih =>
    simp only [List.foldl_cons]
    obtain ⟨h1, h2⟩ := ih (st.updChip a f)
    refine ⟨?_, fun p hp => ?_⟩
    · rw [h1]
      rfl
    · simp only [List.mem_cons, not_or] at hp
      rw [h2 p hp.2, State.updChip_part_ne _ _ hp.1]

/-- Changing the chips of a list of distinct slots changes each of them once. -/
theorem foldl_updChip_part (f : Chip → Chip) (l : List Slot) (hl : l.Nodup) (st : State) (p : Slot) (hp : p ∈ l) :
    (l.foldl (fun s p => s.updChip p f) st).part p = { st.part p with chip := f (st.chip p) } := by
  induction l generalizing st with
  | nil => simp at hp
  | cons a l ih =>
    simp only [List.foldl_cons]
    obtain ⟨ha, hl'⟩ := List.nodup_cons.mp hl
    by_cases h : p = a
    · subst h
      rw [(foldl_updChip_frame f l _).2 p ha]
      simp
    · rw [ih hl' _ (by simpa [h] using hp)]
      simp [State.chip, State.updChip_part_ne _ _ h]

/-- What an edge delivery does: each attached chip gets one edge on line 1, nothing else changes
(42_bus_arbiter.md R176). -/
theorem State.deliverEdge_spec (st : State) (e : Edge) :
    st.deliverEdge e = { st with parts := (st.deliverEdge e).parts } ∧
      (∀ p, p ∈ st.attachedSlots →
        (st.deliverEdge e).part p = { st.part p with chip := (st.chip p).signal .cl1 e }) ∧
      ∀ p, p ∉ st.attachedSlots → (st.deliverEdge e).part p = st.part p :=
  ⟨(foldl_updChip_frame _ _ st).1, fun p hp => foldl_updChip_part _ _ st.attachedSlots_nodup st p hp,
    (foldl_updChip_frame _ _ st).2⟩

/-- The two ends of a resolution: the level is unchanged and no edge is delivered, or it changes and one is
(42_bus_arbiter.md R176). -/
theorem State.resolve_cases (st : State) :
    (st.params.attention st.wiredAnd = st.atn ∧ st.resolve = { st with bus := st.wiredAnd }) ∨
      (st.params.attention st.wiredAnd ≠ st.atn ∧
        st.resolve = ({ st with bus := st.wiredAnd, atn := st.params.attention st.wiredAnd } : State).deliverEdge
          (if st.params.attention st.wiredAnd then .rise else .fall)) := by
  by_cases h : st.params.attention st.wiredAnd = st.atn <;> simp [State.resolve, h]

/-- What a resolution does: the bus is the wired AND, the attention level its bit, every attached chip gets one edge on
line 1 exactly when the level changed, and nothing else changes (42_bus_arbiter.md R176). -/
theorem State.resolve_spec (st : State) :
    let t := st.resolve
    let level := st.params.attention st.wiredAnd
    t = { st with bus := st.wiredAnd, atn := level, parts := t.parts } ∧
      (∀ p, t.part p = if level ≠ st.atn ∧ p ∈ st.attachedSlots then
        { st.part p with chip := (st.chip p).signal .cl1 (if level then .rise else .fall) } else st.part p) := by
  rcases st.resolve_cases with ⟨h, e⟩ | ⟨h, e⟩
  · simp [e, h, State.part]
  · simp only [e]
    obtain ⟨h1, h2, h3⟩ := State.deliverEdge_spec
      { st with bus := st.wiredAnd, atn := st.params.attention st.wiredAnd }
      (if st.params.attention st.wiredAnd then .rise else .fall)
    refine ⟨h1, fun p => ?_⟩
    by_cases hp : p ∈ st.attachedSlots
    · rw [h2 p hp]
      simp [h, hp, State.part, State.chip]
    · rw [h3 p hp]
      simp [hp, State.part]

theorem State.resolve_drive (st : State) (x : Slot) : st.resolve.drive x = st.drive x := by
  rw [State.drive, st.resolve_spec.1]
  rfl

theorem State.resolve_agent (st : State) (x : Slot) : st.resolve.agent x = st.agent x := by
  rw [State.agent, st.resolve_spec.1]
  rfl

@[simp] theorem State.resolve_params (st : State) : st.resolve.params = st.params := by rw [st.resolve_spec.1]
@[simp] theorem State.resolve_port (st : State) : st.resolve.port = st.port := by rw [st.resolve_spec.1]
@[simp] theorem State.resolve_sdat (st : State) : st.resolve.sdat = st.sdat := by rw [st.resolve_spec.1]
@[simp] theorem State.resolve_fDrive (st : State) : st.resolve.fDrive = st.fDrive := by rw [st.resolve_spec.1]
@[simp] theorem State.resolve_authClk (st : State) : st.resolve.authClk = st.authClk := by rw [st.resolve_spec.1]
@[simp] theorem State.resolve_err (st : State) : st.resolve.err = st.err := by rw [st.resolve_spec.1]
@[simp] theorem State.resolve_errSlot (st : State) : st.resolve.errSlot = st.errSlot := by rw [st.resolve_spec.1]
@[simp] theorem State.resolve_res (st : State) : st.resolve.res = st.res := by rw [st.resolve_spec.1]
@[simp] theorem State.resolve_bus (st : State) : st.resolve.bus = st.wiredAnd := by rw [st.resolve_spec.1]
@[simp] theorem State.resolve_atn (st : State) : st.resolve.atn = st.params.attention st.wiredAnd := by
  rw [st.resolve_spec.1]

/-- A resolution changes participant registers at most by attention edges. -/
theorem State.resolve_part (st : State) (p : Slot) :
    st.resolve.part p = { st.part p with chip := st.resolve.chip p } := by
  rw [State.chip, st.resolve_spec.2 p]
  split <;> rfl

/-- A resolution leaves the bus coherent (10_state.md R30). -/
theorem State.resolve_coherent (st : State) : st.resolve.BusCoherent := by
  have hw : st.resolve.wiredAnd = st.wiredAnd := by
    refine State.wiredAnd_congr (by simp) (fun x => by rw [st.resolve_drive]) (fun p => ?_)
    rw [st.resolve_part p]
    exact ⟨rfl, rfl⟩
  simp [State.BusCoherent, hw]

/-- An edge on line 1 writes the CL1 flag and the level of line 1 only (43_peripheral_chip.md R240). -/
theorem Chip.signal_cl1_edges (c : Chip) (e : Edge) : SameButEdges c (c.signal .cl1 e) := by
  refine ⟨(c.signal .cl1 e).ifr, (c.signal .cl1 e).cl, ?_, ?_, ?_⟩
  · simp [Chip.signal, Chip.setFlag, Chip.setLevel]
  · simp [Chip.signal, Chip.setFlag, Chip.setLevel, IrqSource.bit, BitVec.or_assoc]
  · cases e
    · simp only [Chip.signal, Chip.setFlag, Chip.setLevel, edgeLevel, lineBit]
      generalize c.cl = x
      revert x
      decide
    · simp [Chip.signal, Chip.setFlag, Chip.setLevel, edgeLevel, lineBit, BitVec.or_assoc]

theorem SameButEdges.refl (c : Chip) : SameButEdges c c := ⟨c.ifr, c.cl, rfl, rfl, rfl⟩

theorem SameButEdges.trans {a b c : Chip} (h1 : SameButEdges a b) (h2 : SameButEdges b c) : SameButEdges a c := by
  obtain ⟨i, l, rfl, hi, hl⟩ := h1
  obtain ⟨i', l', rfl, hi', hl'⟩ := h2
  exact ⟨i', l', rfl, hi'.trans hi, hl'.trans hl⟩

theorem State.resolve_chip_edges (st : State) (p : Slot) : SameButEdges (st.chip p) (st.resolve.chip p) := by
  rw [State.chip, State.chip, st.resolve_spec.2 p]
  split
  · exact Chip.signal_cl1_edges _ _
  · exact SameButEdges.refl _

end Sys2Proof.Machine
end

