-- ==== Sys2Proof/Laws/CatchUp.lean ====
section
/-! SUPPORT. The catch-up and everything nested in it (spec/40_clock_converter.md R137 to R145): one induction principle, and
what follows from it once for all: the frame, and that a nested catch-up carries one target. -/

namespace Sys2Proof.Machine

/-- What asking the agent does: its history grows by the question and its script loses its head, if it has one
(40_clock_converter.md R141). -/
theorem State.cpuStep_snd (st : State) (s : Slot) : (st.cpuStep s).2 =
    st.updAgent s (fun a => { a with script := a.script.tail, history := .asked (st.chip s).irq :: a.history }) := by
  have ha : (st.tell s (.asked (st.chip s).irq)).agent s
      = { st.agent s with history := .asked (st.chip s).irq :: (st.agent s).history } := by
    simp only [State.tell, State.updAgent_agent_same]
  unfold State.cpuStep
  dsimp only
  rw [ha]
  cases h : (st.agent s).script with
  | nil =>
    dsimp only
    rw [State.tell]
    unfold State.updAgent
    simp only [h, List.tail_nil]
  | cons a rest =>
    dsimp only
    unfold State.updAgent
    rw [ha]
    simp [State.tell, State.updAgent, h]

/-- The answer depends on nothing but the slot's agent and its interrupt line (40_clock_converter.md R141). -/
theorem State.cpuStep_fst_congr {s t : State} (d : Slot) (ha : t.agent d = s.agent d)
    (hi : (t.chip d).irq = (s.chip d).irq) : (t.cpuStep d).1 = (s.cpuStep d).1 := by
  simp only [State.cpuStep, State.tell, State.updAgent_agent_same, ha, hi]
  cases (s.agent d).script <;> rfl

theorem State.cpuStep_spec (st : State) (s : Slot) :
    ∃ rest, (st.cpuStep s).2 =
      st.updAgent s (fun a => { a with script := rest, history := .asked (st.chip s).irq :: a.history }) :=
  ⟨(st.agent s).script.tail, st.cpuStep_snd s⟩

/-- What the work inside one catch-up to `T` may do to a state, step by step: `D` holds of the drive slots, `A` of those that
it runs. -/
structure CatchInv (T : Clock) (D A : Slot → Prop) (I : State → Prop) : Prop where
  nonhost : ∀ s, D s → s ≠ 0
  drives : ∀ st, I st → ∀ d ∈ st.params.driveSlots, D d
  enter : ∀ s st, I st → D s → (st.drive s).en = true → (st.drive s).jam = false →
    0 < st.params.sdiff T (st.drive s).lastSync → A s ∧
      let c := convert st.params (st.drive s).stopClk (st.drive s).frac (st.drive s).sf
        (st.params.sdiff T (st.drive s).lastSync).toNat
      I (st.updDrive s (fun d => { d with lastSync := T, stopClk := c.1, frac := c.2 }))
  ask : ∀ s st rest, A s → I st → I (st.updAgent s (fun a =>
    { a with script := rest, history := .asked (st.chip s).irq :: a.history }))
  jam : ∀ s st addr, A s → I st → (st.drive s).lastSync = T →
    I ((st.updDrive s (fun d => { d with jam := true, jamAddr := addr })).raise .processorJammed s)
  ticks : ∀ s st n, A s → I st → I ((st.updDrive s (fun d =>
    { d with localClk := st.params.addClk d.localClk (BitVec.ofNat 64 n) })).chipTick s n)
  read : ∀ s st r v, A s → I st → I (st.updPart s (fun x => { x with chip := x.chip.afterRead r, rmwVal := v }))
  hear : ∀ s st b, A s → I st → I (st.tell s (.gotByte b))
  store : ∀ s st r x, A s → I st → I (st.updChip s (fun c => c.store r x))
  signal : ∀ s st line e, A s → I st → I (st.chipSignal s line e)
  clamp : ∀ s st, A s → I st → (st.part s).mode = .pullOnly → I (st.raise .busParticipantMisconfigured s)
  notify : ∀ s st byte, A s → I st → I ((st.updPart s (fun x => { x with out := byte })).resolve)

/-- A catch-up to `T` keeps `I`, and leaves at `T` every slot that was there. -/
def CatchKeeps (T : Clock) (D : Slot → Prop) (I : State → Prop) (catchIt : CatchUp) : Prop :=
  ∀ d st, D d → I st → I (catchIt d T st) ∧
    ∀ x, (st.drive x).lastSync = T → ((catchIt d T st).drive x).lastSync = T

section Keeps

variable {T : Clock} {D A : Slot → Prop} {I : State → Prop} {catchIt : CatchUp}

theorem foldl_catch_keeps (hc : CatchKeeps T D I catchIt) (l : List Slot) (hl : ∀ d ∈ l, D d) (st : State) (h : I st) :
    I (l.foldl (fun s d => catchIt d T s) st) ∧
      ∀ x, (st.drive x).lastSync = T → ((l.foldl (fun s d => catchIt d T s) st).drive x).lastSync = T := by
  induction l generalizing st with
  | nil => exact ⟨h, fun _ h => h⟩
  | cons a l ih =>
    obtain ⟨h1, h2⟩ := hc a st (hl a (by simp)) h
    obtain ⟨h3, h4⟩ := ih (fun d hd => hl d (by simp [hd])) _ h1
    exact ⟨h3, fun x hx => h4 x (h2 x hx)⟩

theorem catchAll_keeps (hi : CatchInv T D A I) (hc : CatchKeeps T D I catchIt) (st : State) (h : I st) :
    I (catchAll catchIt T st) ∧
      ∀ x, (st.drive x).lastSync = T → ((catchAll catchIt T st).drive x).lastSync = T :=
  foldl_catch_keeps hc _ (hi.drives st h) st h

theorem catchAllExcept_keeps (hi : CatchInv T D A I) (hc : CatchKeeps T D I catchIt) (s : Slot) (st : State) (h : I st) :
    I (catchAllExcept catchIt s T st) ∧
      ∀ x, (st.drive x).lastSync = T → ((catchAllExcept catchIt s T st).drive x).lastSync = T :=
  foldl_catch_keeps hc _ (fun d hd => hi.drives st h d (List.mem_of_mem_filter hd)) st h

/-- The two ends of a bus notification: clamped and logged, or not (42_bus_arbiter.md R177). -/
theorem outChg_cases (catchIt : CatchUp) (p : Slot) (byte : Byte) (act : Bool) (clk : Clock) (st : State) :
    let u := catchAllExcept catchIt p clk st
    (act = true ∧ (u.part p).mode = .pullOnly ∧ outChg catchIt p byte act clk st =
        ((u.raise .busParticipantMisconfigured p).updPart p (fun x => { x with out := byte })).resolve) ∨
      (¬ (act = true ∧ (u.part p).mode = .pullOnly) ∧
        outChg catchIt p byte act clk st = (u.updPart p (fun x => { x with out := byte })).resolve) := by
  intro u
  by_cases h : act = true ∧ (u.part p).mode = .pullOnly
  · exact .inl ⟨h.1, h.2, by simp [outChg, u, h.1, h.2]⟩
  · refine .inr ⟨h, ?_⟩
    unfold outChg
    dsimp only
    rw [if_neg h]

/-- A bus notification of a running slot (42_bus_arbiter.md R177). -/
theorem outChg_keeps (hi : CatchInv T D A I) (hc : CatchKeeps T D I catchIt) {s : Slot} (hs : A s) (byte : Byte) (act : Bool)
    (st : State) (h : I st) :
    I (outChg catchIt s byte act T st) ∧
      ∀ x, (st.drive x).lastSync = T → ((outChg catchIt s byte act T st).drive x).lastSync = T := by
  obtain ⟨h1, h2⟩ := catchAllExcept_keeps hi hc s st h
  rcases outChg_cases catchIt s byte act T st with ⟨_, hm, e⟩ | ⟨_, e⟩ <;> rw [e]
  · exact ⟨hi.notify s _ _ hs (hi.clamp s _ hs h1 hm), fun x hx => by rw [State.resolve_drive]; exact h2 x hx⟩
  · exact ⟨hi.notify s _ _ hs h1, fun x hx => by rw [State.resolve_drive]; exact h2 x hx⟩

theorem storeOne_keeps (hi : CatchInv T D A I) (hc : CatchKeeps T D I catchIt) {s : Slot} (hs : A s) (r : ChipReg) (x : Byte)
    (st : State) (h : I st) :
    I (storeOne catchIt s r x T st) ∧
      ∀ y, (st.drive y).lastSync = T → ((storeOne catchIt s r x T st).drive y).lastSync = T := by
  unfold storeOne
  split
  · exact outChg_keeps hi hc hs _ _ _ (hi.store s st r x hs h)
  · exact ⟨hi.store s st r x hs h, fun _ hy => hy⟩

/-- A store of a running slot (43_peripheral_chip.md R207). -/
theorem chipStore_keeps (hi : CatchInv T D A I) (hc : CatchKeeps T D I catchIt) {s : Slot} (hs : A s) (r : ChipReg) (b : Byte)
    (rmw : Bool) (st : State) (h : I st) :
    I (chipStore catchIt s r b rmw T st) ∧
      ∀ y, (st.drive y).lastSync = T → ((chipStore catchIt s r b rmw T st).drive y).lastSync = T := by
  unfold chipStore
  cases rmw with
  | false => exact storeOne_keeps hi hc hs r b st h
  | true =>
    obtain ⟨h1, h2⟩ := storeOne_keeps hi hc hs r (st.part s).rmwVal st h
    obtain ⟨h3, h4⟩ := storeOne_keeps hi hc hs r b _ h1
    exact ⟨h3, fun y hy => h4 y (h2 y hy)⟩

theorem updDrive_lastSync_eq (st : State) (s : Slot) (f : Drive → Drive) (hf : ∀ d, (f d).lastSync = d.lastSync)
    (y : Slot) : ((st.updDrive s f).drive y).lastSync = (st.drive y).lastSync := by
  rw [State.updDrive_drive]
  split
  · rename_i h
    rw [h, hf]
  · rfl

/-- The two ends of the idle-loop jump: nothing, or the local clock and the chip's timers move by the same number of
ticks (40_clock_converter.md R144). -/
theorem idleTrap_cases (s : Slot) (st : State) :
    (st.running s = false ∧ idleTrap s st = st) ∨
      (st.running s = true ∧ ∃ n, idleTrap s st =
        (st.updDrive s (fun d => { d with localClk := st.params.addClk d.localClk (BitVec.ofNat 64 n) })).chipTick s n) := by
  cases h : st.running s
  · exact .inl ⟨rfl, by simp [idleTrap, h]⟩
  · refine .inr ⟨rfl, ?_⟩
    unfold idleTrap
    rw [if_pos h]
    exact ⟨_, rfl⟩

/-- The idle-loop jump of a running slot (40_clock_converter.md R144). -/
theorem idleTrap_keeps (hi : CatchInv T D A I) {s : Slot} (hs : A s) (st : State) (h : I st) :
    I (idleTrap s st) ∧ ∀ y, ((idleTrap s st).drive y).lastSync = (st.drive y).lastSync := by
  rcases idleTrap_cases s st with ⟨_, e⟩ | ⟨_, n, e⟩ <;> rw [e]
  · exact ⟨h, fun _ => rfl⟩
  · exact ⟨hi.ticks s st _ hs h, fun y => updDrive_lastSync_eq st s
      (fun d => { d with localClk := st.params.addClk d.localClk (BitVec.ofNat 64 n) }) (fun _ => rfl) y⟩

theorem bodyAct_keeps (hi : CatchInv T D A I) (hc : CatchKeeps T D I catchIt) {s : Slot} (hs : A s) (a : BodyAct)
    (st : State) (h : I st) (hT : (st.drive s).lastSync = T) :
    I (bodyAct catchIt s a st) ∧
      ∀ y, (st.drive y).lastSync = T → ((bodyAct catchIt s a st).drive y).lastSync = T := by
  cases a with
  | wr r rmw b =>
    simp only [bodyAct, hT]
    exact chipStore_keeps hi hc hs r b rmw st h
  | signal line e => exact ⟨hi.signal s st line e hs h, fun _ hy => hy⟩
  | idletrap =>
    obtain ⟨h1, h2⟩ := idleTrap_keeps hi hs st h
    exact ⟨h1, fun y hy => (h2 y).trans hy⟩

/-- A read of a drive's own slot catches nobody up (43_peripheral_chip.md R208). -/
theorem chipRead_drive {s : Slot} (hs : s ≠ 0) (r : ChipReg) (clk : Clock) (st : State) :
    chipRead catchIt s r clk st =
      ((st.chip s).readValue r st.bus (st.part s).paIn,
        st.updPart s (fun x => { x with
          chip := x.chip.afterRead r
          rmwVal := (st.chip s).readValue r st.bus (st.part s).paIn })) := by
  have h : ¬ (s = 0 ∧ r = .pb) := fun h => hs h.1
  unfold chipRead
  rw [if_neg h]

/-- The accesses of an instruction body (40_clock_converter.md R142). -/
theorem runBody_keeps (hi : CatchInv T D A I) (hc : CatchKeeps T D I catchIt) {s : Slot} (hs : A s) (hs0 : s ≠ 0)
    (body : Body) (st : State) (h : I st) (hT : (st.drive s).lastSync = T) :
    I (runBody catchIt s body st) ∧
      ∀ y, (st.drive y).lastSync = T → ((runBody catchIt s body st).drive y).lastSync = T := by
  induction body generalizing st with
  | done => exact ⟨h, fun _ hy => hy⟩
  | read r next ih =>
    simp only [runBody, chipRead_drive hs0]
    exact ih _ _ (hi.hear s _ _ hs (hi.read s st r _ hs h)) hT
  | act a next ih =>
    obtain ⟨h1, h2⟩ := bodyAct_keeps hi hc hs a st h hT
    obtain ⟨h3, h4⟩ := ih _ h1 (h2 s hT)
    exact ⟨h3, fun y hy => h4 y (h2 y hy)⟩

/-- The two ends of one step of the agent: a jam, or its ticks and then its accesses (40_clock_converter.md R142, R143). -/
theorem execInstr_cases (catchIt : CatchUp) (s : Slot) (st : State) :
    ∃ rest, let asked := st.updAgent s (fun a =>
        { a with script := rest, history := .asked (st.chip s).irq :: a.history })
      (∃ addr, (st.cpuStep s).1 = .jam addr ∧ execInstr catchIt s st =
        (asked.updDrive s (fun d => { d with jam := true, jamAddr := addr })).raise .processorJammed s) ∨
      (∃ k body, (st.cpuStep s).1 = .instr k body ∧ execInstr catchIt s st = runBody catchIt s body
        ((asked.updDrive s (fun d => { d with
          localClk := asked.params.addClk d.localClk (BitVec.ofNat 64 (st.params.legalTicks k)) })).chipTick s
            (st.params.legalTicks k))) := by
  obtain ⟨rest, e⟩ := st.cpuStep_spec s
  refine ⟨rest, ?_⟩
  unfold execInstr
  dsimp only
  rw [← e]
  cases h : (st.cpuStep s).1 with
  | jam addr => exact .inl ⟨addr, rfl, rfl⟩
  | instr k body =>
    refine .inr ⟨k, body, rfl, ?_⟩
    dsimp only
    have hp : (st.cpuStep s).2.params = st.params := by rw [e]; rfl
    rw [hp]

/-- One step of the agent (40_clock_converter.md R142, R143). -/
theorem execInstr_keeps (hi : CatchInv T D A I) (hc : CatchKeeps T D I catchIt) {s : Slot} (hs : A s) (hs0 : s ≠ 0)
    (st : State) (h : I st) (hT : (st.drive s).lastSync = T) :
    I (execInstr catchIt s st) ∧
      ∀ y, (st.drive y).lastSync = T → ((execInstr catchIt s st).drive y).lastSync = T := by
  obtain ⟨rest, hcase⟩ := execInstr_cases catchIt s st
  have h1 := hi.ask s st rest hs h
  rcases hcase with ⟨addr, _, e⟩ | ⟨k, body, _, e⟩ <;> rw [e]
  · exact ⟨hi.jam s _ addr hs h1 hT, fun y hy =>
      (updDrive_lastSync_eq _ s (fun d => { d with jam := true, jamAddr := addr }) (fun _ => rfl) y).trans hy⟩
  · have hk := fun y => updDrive_lastSync_eq (st.updAgent s (fun a =>
        { a with script := rest, history := .asked (st.chip s).irq :: a.history })) s
      (fun d => { d with localClk := st.params.addClk d.localClk (BitVec.ofNat 64 (st.params.legalTicks k)) })
      (fun _ => rfl) y
    obtain ⟨h3, h4⟩ := runBody_keeps hi hc hs hs0 body _ (hi.ticks s _ (st.params.legalTicks k) hs h1)
      ((hk s).trans hT)
    exact ⟨h3, fun y hy => h4 y ((hk y).trans hy)⟩

/-- The instructions of one slot up to its stop value (40_clock_converter.md R139). -/
theorem run_keeps (hi : CatchInv T D A I) (hc : CatchKeeps T D I catchIt) {s : Slot} (hs : A s) (hs0 : s ≠ 0)
    (fuel : Nat) (st : State) (h : I st) (hT : (st.drive s).lastSync = T) :
    I (run catchIt s fuel st) ∧
      ∀ y, (st.drive y).lastSync = T → ((run catchIt s fuel st).drive y).lastSync = T := by
  induction fuel generalizing st with
  | zero => exact ⟨h, fun _ hy => hy⟩
  | succ n ih =>
    unfold run
    split
    · obtain ⟨h1, h2⟩ := execInstr_keeps hi hc hs hs0 st h hT
      obtain ⟨h3, h4⟩ := ih _ h1 (h2 s hT)
      exact ⟨h3, fun y hy => h4 y (h2 y hy)⟩
    · exact ⟨h, fun _ hy => hy⟩

/-- The two ends of a catch-up: nothing, or the conversion and the run (40_clock_converter.md R137). -/
theorem catchUpWith_cases (catchIt : CatchUp) (s : Slot) (T : Clock) (st : State) :
    (((st.drive s).en = false ∨ (st.drive s).jam = true ∨ st.params.sdiff T (st.drive s).lastSync ≤ 0) ∧
        catchUpWith catchIt s T st = st) ∨
      ((st.drive s).en = true ∧ (st.drive s).jam = false ∧ 0 < st.params.sdiff T (st.drive s).lastSync ∧
        catchUpWith catchIt s T st =
          (let c := convert st.params (st.drive s).stopClk (st.drive s).frac (st.drive s).sf
            (st.params.sdiff T (st.drive s).lastSync).toNat
          run catchIt s (runLimit st.params)
            (st.updDrive s (fun d => { d with lastSync := T, stopClk := c.1, frac := c.2 })))) := by
  unfold catchUpWith
  dsimp only
  by_cases h : ((st.drive s).en && !(st.drive s).jam) = true
  · rw [if_pos h]
    simp only [Bool.and_eq_true, Bool.not_eq_true'] at h
    by_cases hd : 0 < st.params.sdiff T (st.drive s).lastSync
    · rw [if_pos hd]
      exact .inr ⟨h.1, h.2, hd, rfl⟩
    · rw [if_neg hd]
      exact .inl ⟨.inr (.inr (by omega)), rfl⟩
  · rw [if_neg h]
    refine .inl ⟨?_, rfl⟩
    cases he : (st.drive s).en <;> simp_all

theorem catchUpWith_keeps (hi : CatchInv T D A I) (hc : CatchKeeps T D I catchIt) : CatchKeeps T D I (catchUpWith catchIt) := by
  intro s st hs0 h
  rcases catchUpWith_cases catchIt s T st with ⟨_, e⟩ | ⟨hen, hj, hd, e⟩
  · rw [e]
    exact ⟨h, fun _ hx => hx⟩
  · rw [e]
    obtain ⟨hs, hI⟩ := hi.enter s st h hs0 hen hj hd
    obtain ⟨h1, h2⟩ := run_keeps hi hc hs (hi.nonhost s hs0) _ _ hI (by simp)
    refine ⟨h1, fun x hx => h2 x ?_⟩
    rw [State.updDrive_drive]
    split
    · rfl
    · exact hx

/-- The induction principle: a catch-up of any depth keeps what each of its steps keeps. -/
theorem catchUpTo_keeps (hi : CatchInv T D A I) (n : Nat) : CatchKeeps T D I (catchUpTo n) := by
  induction n with
  | zero => exact fun _ _ _ h => ⟨h, fun _ hx => hx⟩
  | succ n ih => exact catchUpWith_keeps hi ih

theorem catchUp_keeps (hi : CatchInv T D A I) : CatchKeeps T D I catchUp := catchUpTo_keeps hi nestLimit

end Keeps

end Sys2Proof.Machine
end

