-- ==== Sys2Proof/Laws/Decode.lean ====
section
/-! SUPPORT. The header fields: writing them and reading them back (spec/30_encoding.md R101). -/

namespace Sys2Proof

/-- Reading the fields of a written header gives the fields. -/
@[simp] theorem Fields.ofHeader_toHeader (f : Fields) : Fields.ofHeader f.toHeader = f := by
  obtain ⟨op, slot, reg, rsv, dir, act, edge, rmw, imm⟩ := f
  simp only [Fields.ofHeader, Fields.toHeader, Fields.mk.injEq]
  refine ⟨?_, ?_, ?_, ?_, ?_, ?_, ?_, ?_, ?_⟩ <;>
  · apply BitVec.eq_of_getLsbD_eq
    intro k hk
    simp only [BitVec.getLsbD_extractLsb', BitVec.getLsbD_append]
    interval_cases k <;> simp

/-- Writing the fields of a header gives the header: the fields cover all 32 bits. -/
@[simp] theorem Fields.toHeader_ofHeader (h : BitVec 32) : (Fields.ofHeader h).toHeader = h := by
  apply BitVec.eq_of_getLsbD_eq
  intro k hk
  simp only [Fields.ofHeader, Fields.toHeader, BitVec.getLsbD_extractLsb', BitVec.getLsbD_append]
  interval_cases k <;> simp

/-- A spelled command has a header that fits its format, and is the command meant. -/
theorem Fields.spell_eq_ok {f : Fields} {fmt : Format} {i j : Instr} :
    f.spell fmt i = .ok j ↔ f.fits fmt = true ∧ i = j := by
  unfold Fields.spell
  split <;> simp_all

end Sys2Proof
end

