-- ==== Sys2Proof/Laws/Frame.lean ====
section
/-! SUPPORT. What a catch-up leaves unchanged, and where it leaves the synchronisation points
(spec/40_clock_converter.md R137, R142, R145). -/

namespace Sys2Proof.Machine

theorem ConfigKept.refl (s : State) : ConfigKept s s :=
  ⟨rfl, rfl, rfl, rfl, rfl, rfl, rfl, fun _ => ⟨rfl, rfl, rfl, rfl, rfl⟩, fun _ => ⟨rfl, rfl, rfl⟩,
    fun _ _ => ⟨rfl, rfl⟩⟩

theorem ConfigKept.trans {s t u : State} (h1 : ConfigKept s t) (h2 : ConfigKept t u) : ConfigKept s u where
  params := h2.params.trans h1.params
  port := h2.port.trans h1.port
  sdat := h2.sdat.trans h1.sdat
  fDrive := h2.fDrive.trans h1.fDrive
  authClk := h2.authClk.trans h1.authClk
  res := h2.res.trans h1.res
  conditions := h2.conditions.trans h1.conditions
  drive x := by
    obtain ⟨a, b, c, d, e⟩ := h1.drive x
    obtain ⟨a', b', c', d', e'⟩ := h2.drive x
    exact ⟨a'.trans a, b'.trans b, c'.trans c, d'.trans d, e'.trans e⟩
  part p := by
    obtain ⟨a, b, c⟩ := h1.part p
    obtain ⟨a', b', c'⟩ := h2.part p
    exact ⟨a'.trans a, b'.trans b, c'.trans c⟩
  idle x hx := by
    obtain ⟨hd, ha⟩ := h1.idle x hx
    obtain ⟨hd', ha'⟩ := h2.idle x (by rwa [hd])
    exact ⟨hd'.trans hd, ha'.trans ha⟩

theorem CatchFrame.refl (s : State) : CatchFrame s s where
  kept := .refl s
  sticky := BitVec.and_self
  errSlot := .inl rfl
  raised h := absurd rfl h
  jams d h h' := by rw [h] at h'; cases h'
  detached _ _ _ := rfl
  edges _ _ := ⟨rfl, .refl _⟩

/-- A drive that is not jammed after a catch-up was not jammed before it. -/
theorem ConfigKept.unjammed {s t : State} (h : ConfigKept s t) {x : Slot} (hx : (t.drive x).jam = false) :
    (s.drive x).jam = false := by
  cases hj : (s.drive x).jam
  · rfl
  · rw [(h.idle x (.inr (.inr hj))).1, hj] at hx
    cases hx

/-- A sticky bit stands after whatever keeps the sticky bits. -/
theorem sticky_bit {a b : BitVec 10} (h : a &&& b = a) {k : Nat} (hk : a.getLsbD k = true) : b.getLsbD k = true := by
  rw [← h, BitVec.getLsbD_and, Bool.and_eq_true] at hk
  exact hk.2

/-- Two participant records that differ in attention edges only. -/
theorem edges_trans {x y z : Part} (h1 : y = { x with chip := y.chip } ∧ SameButEdges x.chip y.chip)
    (h2 : z = { y with chip := z.chip } ∧ SameButEdges y.chip z.chip) :
    z = { x with chip := z.chip } ∧ SameButEdges x.chip z.chip := by
  refine ⟨?_, h1.2.trans h2.2⟩
  rw [h2.1, h1.1]

theorem CatchFrame.trans {s t u : State} (h1 : CatchFrame s t) (h2 : CatchFrame t u) : CatchFrame s u where
  kept := h1.kept.trans h2.kept
  sticky := by
    rw [← h1.sticky, BitVec.and_assoc, h2.sticky]
  errSlot := by
    rcases h2.errSlot with e | ⟨hd, hen, hj, hc⟩
    · rw [e]
      rcases h1.errSlot with e' | ⟨hd, hen, hj, hc⟩
      · exact .inl e'
      · refine .inr ⟨hd, hen, hj, ?_⟩
        rcases hc with ⟨a, b⟩ | ⟨a, b⟩
        · exact .inl ⟨by rw [(h2.kept.idle _ (.inr (.inr a))).1]; exact a, sticky_bit h2.sticky b⟩
        · exact .inr ⟨a, sticky_bit h2.sticky b⟩
    · rw [h1.kept.params] at hd
      rw [(h1.kept.drive _).2.2.1] at hen
      rw [(h1.kept.part _).1] at hc
      exact .inr ⟨hd, hen, h1.kept.unjammed hj, hc⟩
  raised h := by
    by_cases hu : u.err = t.err
    · have ht := h1.raised (hu ▸ h)
      rcases h2.errSlot with e | ⟨hd, _⟩
      · rw [e]; exact ht
      · rw [← h1.kept.params]; exact hd
    · rw [← h1.kept.params]
      exact h2.raised hu
  jams d h h' := by
    cases hj : (t.drive d).jam
    · rw [← h1.kept.params]
      exact h2.jams d hj h'
    · obtain ⟨hb, ht⟩ := h1.jams d h hj
      refine ⟨sticky_bit h2.sticky hb, ?_⟩
      rcases h2.errSlot with e | ⟨hd, _⟩
      · rw [e]; exact ht
      · rw [← h1.kept.params]; exact hd
  detached p hp he := by
    rw [h2.detached p hp (by rw [(h1.kept.drive p).2.2.1]; exact he), h1.detached p hp he]
  edges p hp := by
    have hd : p = 0 ∨ (t.drive p).jam = true := by
      rcases hp with h | h
      · exact .inl h
      · exact .inr (by rw [(h1.kept.idle p (.inr (.inr h))).1]; exact h)
    exact edges_trans (h1.edges p hp) (h2.edges p hd)

/-- What one operation on behalf of slot `s` leaves unchanged: configuration, the other drives and agents, and the other
participants but for attention edges. -/
structure SlotFrame (s : Slot) (t u : State) : Prop where
  params : u.params = t.params
  port : u.port = t.port
  sdat : u.sdat = t.sdat
  fDrive : u.fDrive = t.fDrive
  authClk : u.authClk = t.authClk
  res : u.res = t.res
  conditions : u.err ||| 0b1010 = t.err ||| 0b1010
  drive : ∀ x, x ≠ s → u.drive x = t.drive x
  config : (u.drive s).fLocal = (t.drive s).fLocal ∧ (u.drive s).turbo = (t.drive s).turbo ∧
    (u.drive s).en = (t.drive s).en ∧ (u.drive s).sf = (t.drive s).sf ∧ (u.drive s).sub = (t.drive s).sub
  agent : ∀ x, x ≠ s → u.agent x = t.agent x
  own : (u.part s).mode = (t.part s).mode ∧ (u.part s).fastneg = (t.part s).fastneg ∧ (u.part s).paIn = (t.part s).paIn
  part : ∀ p, p ≠ s → u.part p = { t.part p with chip := u.chip p } ∧ SameButEdges (t.chip p) (u.chip p) ∧
    (p ≠ 0 → (t.drive p).en = false → u.part p = t.part p)

/-- An operation that changes the drive registers, agent and participant registers of one slot, and conditions 1 and 3. -/
theorem SlotFrame.of_own {s : Slot} {t u : State}
    (h : u = { t with drives := u.drives, agents := u.agents, parts := u.parts, err := u.err, errSlot := u.errSlot })
    (conditions : u.err ||| 0b1010 = t.err ||| 0b1010)
    (drive : ∀ x, x ≠ s → u.drive x = t.drive x)
    (config : (u.drive s).fLocal = (t.drive s).fLocal ∧ (u.drive s).turbo = (t.drive s).turbo ∧
      (u.drive s).en = (t.drive s).en ∧ (u.drive s).sf = (t.drive s).sf ∧ (u.drive s).sub = (t.drive s).sub)
    (agent : ∀ x, x ≠ s → u.agent x = t.agent x)
    (part : ∀ x, x ≠ s → u.part x = t.part x)
    (own : (u.part s).mode = (t.part s).mode ∧ (u.part s).fastneg = (t.part s).fastneg ∧
      (u.part s).paIn = (t.part s).paIn) : SlotFrame s t u where
  params := by rw [h]
  port := by rw [h]
  sdat := by rw [h]
  fDrive := by rw [h]
  authClk := by rw [h]
  res := by rw [h]
  conditions := conditions
  drive := drive
  config := config
  agent := agent
  own := own
  part p hp := by
    have hc : u.chip p = t.chip p := by rw [State.chip, part p hp, State.chip]
    rw [part p hp, hc]
    exact ⟨rfl, .refl _, fun _ _ => rfl⟩

theorem SlotFrame.resolve {s : Slot} {t u : State} (h : SlotFrame s t u) : SlotFrame s t u.resolve where
  params := by simp [h.params]
  port := by simp [h.port]
  sdat := by simp [h.sdat]
  fDrive := by simp [h.fDrive]
  authClk := by simp [h.authClk]
  res := by simp [h.res]
  conditions := by simpa using h.conditions
  drive x hx := by rw [State.resolve_drive, h.drive x hx]
  config := by
    rw [State.resolve_drive]
    exact h.config
  agent x hx := by rw [State.resolve_agent, h.agent x hx]
  own := by
    rw [State.resolve_part]
    exact h.own
  part p hp := by
    obtain ⟨h1, h2, h3⟩ := h.part p hp
    have h4 := edges_trans ⟨h1, h2⟩ ⟨u.resolve_part p, u.resolve_chip_edges p⟩
    refine ⟨h4.1, h4.2, fun hp0 hen => ?_⟩
    rw [← h3 hp0 hen, u.resolve_spec.2 p, if_neg]
    rintro ⟨-, hmem⟩
    have ha := ((u.mem_attachedSlots p).mp hmem).2
    rw [State.attached, h.drive p hp, hen] at ha
    simp only [Bool.or_false, beq_iff_eq] at ha
    exact hp0 ha

/-- What one operation on behalf of slot `s` does to the conditions: nothing, with the slot's jam as it was; or it raises
ProcessorJammed and jams the slot; or it raises BusParticipantMisconfigured for a pull-only slot. -/
def ErrStep (s : Slot) (t u : State) : Prop :=
  (u.err = t.err ∧ u.errSlot = t.errSlot ∧ (u.drive s).jam = (t.drive s).jam) ∨
    (u.err = t.err ||| 0x002 ∧ u.errSlot = s ∧ (u.drive s).jam = true) ∨
    (u.err = t.err ||| 0x008 ∧ u.errSlot = s ∧ (u.drive s).jam = (t.drive s).jam ∧ (t.part s).mode = .pullOnly)

theorem ErrStep.sticky {s : Slot} {t u : State} (h : ErrStep s t u) : t.err &&& u.err = t.err := by
  rcases h with ⟨e, _⟩ | ⟨e, _⟩ | ⟨e, _⟩ <;> rw [e] <;> ext k hk <;>
    simp only [BitVec.getElem_and, BitVec.getElem_or, Bool.and_self, Bool.and_or_distrib_left] <;>
    cases t.err[k] <;> rfl

/-- A frame of one slot, from a state that frames the start, when the start lets that slot run. -/
theorem CatchFrame.slot {s0 t u : State} {s : Slot} (h : CatchFrame s0 t) (hs : s0.params.isDrive s = true)
    (hen : (s0.drive s).en = true) (hj : (s0.drive s).jam = false) (hf : SlotFrame s t u) (he : ErrStep s t u) :
    CatchFrame s0 u := by
  have hstick : s0.err &&& u.err = s0.err := by rw [← h.sticky, BitVec.and_assoc, he.sticky]
  have hmode : (t.part s).mode = (s0.part s).mode := (h.kept.part s).1
  have hidle : ∀ x, x = 0 ∨ (s0.drive x).en = false ∨ (s0.drive x).jam = true → x ≠ s := by
    rintro x hx rfl
    have := Params.isDrive_ne_zero hs
    simp_all
  have hjam : ∀ x, (t.drive x).jam = true → (u.drive x).jam = true := by
    intro x hx
    by_cases hxs : x = s
    · subst hxs
      rcases he with ⟨_, _, e⟩ | ⟨_, _, e⟩ | ⟨_, _, e, _⟩
      · rw [e]; exact hx
      · exact e
      · rw [e]; exact hx
    · rw [hf.drive x hxs]; exact hx
  have hslot : u.errSlot = t.errSlot ∨ u.errSlot = s := by
    rcases he with ⟨_, e, _⟩ | ⟨_, e, _⟩ | ⟨_, e, _⟩
    · exact .inl e
    · exact .inr e
    · exact .inr e
  have hkeep : s0.params.isDrive t.errSlot = true → s0.params.isDrive u.errSlot = true := by
    intro ht
    rcases hslot with e | e
    · rw [e]; exact ht
    · rw [e]; exact hs
  refine ⟨⟨hf.params.trans h.kept.params, hf.port.trans h.kept.port, hf.sdat.trans h.kept.sdat,
    hf.fDrive.trans h.kept.fDrive, hf.authClk.trans h.kept.authClk, hf.res.trans h.kept.res,
    hf.conditions.trans h.kept.conditions, fun x => ?_, fun p => ?_, fun x hx => ?_⟩, hstick, ?_, fun hne => ?_, fun d hd hd' => ?_,
    fun p hp he => ?_, fun p hp => ?_⟩
  · by_cases hx : x = s
    · obtain ⟨a, b, c, d, e⟩ := hf.config
      obtain ⟨a', b', c', d', e'⟩ := h.kept.drive s
      rw [hx]
      exact ⟨a.trans a', b.trans b', c.trans c', d.trans d', e.trans e'⟩
    · rw [hf.drive x hx]
      exact h.kept.drive x
  · by_cases hx : p = s
    · obtain ⟨a, b, c⟩ := hf.own
      obtain ⟨a', b', c'⟩ := h.kept.part s
      rw [hx]
      exact ⟨a.trans a', b.trans b', c.trans c'⟩
    · rw [(hf.part p hx).1]
      exact h.kept.part p
  · obtain ⟨a, b⟩ := h.kept.idle x hx
    exact ⟨(hf.drive x (hidle x hx)).trans a, (hf.agent x (hidle x hx)).trans b⟩
  · rcases he with ⟨e, e', e''⟩ | ⟨e, e', e''⟩ | ⟨e, e', e'', hm⟩
    · rw [e']
      rcases h.errSlot with a | ⟨a, b, c, d⟩
      · exact .inl a
      · refine .inr ⟨a, b, c, ?_⟩
        rw [e]
        rcases d with ⟨d, d'⟩ | d
        · exact .inl ⟨hjam _ d, d'⟩
        · exact .inr d
    · rw [e']
      exact .inr ⟨hs, hen, hj, .inl ⟨e'', by rw [e, BitVec.getLsbD_or]; exact Bool.or_true _⟩⟩
    · rw [e']
      exact .inr ⟨hs, hen, hj, .inr ⟨hmode ▸ hm, by rw [e, BitVec.getLsbD_or]; exact Bool.or_true _⟩⟩
  · by_cases ht : t.err = s0.err
    · rcases he with ⟨e, _⟩ | ⟨_, e, _⟩ | ⟨_, e, _⟩
      · exact absurd (e.trans ht) hne
      · rw [e]; exact hs
      · rw [e]; exact hs
    · exact hkeep (h.raised ht)
  · cases hjt : (t.drive d).jam
    · have hds : d = s := by
        by_contra hds
        rw [hf.drive d hds, hjt] at hd'
        cases hd'
      subst hds
      rcases he with ⟨_, _, e⟩ | ⟨e, e', _⟩ | ⟨_, _, e, _⟩
      · rw [e, hjt] at hd'
        cases hd'
      · rw [e, e']
        exact ⟨by rw [BitVec.getLsbD_or]; exact Bool.or_true _, hs⟩
      · rw [e, hjt] at hd'
        cases hd'
    · obtain ⟨a, b⟩ := h.jams d hd hjt
      exact ⟨sticky_bit he.sticky a, hkeep b⟩
  · have hps := hidle p (.inr (.inl he))
    rw [(hf.part p hps).2.2 hp (by rw [(h.kept.drive p).2.2.1]; exact he), h.detached p hp he]
  · have hps : p ≠ s := hidle p (by tauto)
    exact edges_trans (h.edges p hp) ⟨(hf.part p hps).1, (hf.part p hps).2.1⟩

/-- Changes of one slot's drive registers other than configuration. -/
theorem SlotFrame.updDrive (t : State) (s : Slot) (f : Drive → Drive)
    (hf : ∀ d, (f d).fLocal = d.fLocal ∧ (f d).turbo = d.turbo ∧ (f d).en = d.en ∧ (f d).sf = d.sf ∧ (f d).sub = d.sub) :
    SlotFrame s t (t.updDrive s f) :=
  .of_own rfl rfl (fun _ hx => t.updDrive_drive_ne f hx) (by rw [t.updDrive_drive_same]; exact hf _) (fun _ _ => rfl)
    (fun _ _ => rfl) ⟨rfl, rfl, rfl⟩

/-- Changes of one slot's participant registers other than configuration and inputs. -/
theorem SlotFrame.updPart (t : State) (s : Slot) (f : Part → Part)
    (hf : ∀ x, (f x).mode = x.mode ∧ (f x).fastneg = x.fastneg ∧ (f x).paIn = x.paIn) :
    SlotFrame s t (t.updPart s f) :=
  .of_own rfl rfl (fun _ _ => rfl) ⟨rfl, rfl, rfl, rfl, rfl⟩ (fun _ _ => rfl)
    (fun _ hx => t.updPart_part_ne f hx) (by rw [t.updPart_part_same]; exact hf _)

/-- Changes of one slot's chip. -/
theorem SlotFrame.updChip (t : State) (s : Slot) (f : Chip → Chip) : SlotFrame s t (t.updChip s f) :=
  .updPart t s (fun x => { x with chip := f x.chip }) (fun _ => ⟨rfl, rfl, rfl⟩)

/-- Changes of one slot's agent. -/
theorem SlotFrame.updAgent (t : State) (s : Slot) (f : Agent → Agent) : SlotFrame s t (t.updAgent s f) :=
  .of_own rfl rfl (fun _ _ => rfl) ⟨rfl, rfl, rfl, rfl, rfl⟩ (fun _ hx => t.updAgent_agent_ne f hx)
    (fun _ _ => rfl) ⟨rfl, rfl, rfl⟩

/-- ProcessorJammed and BusParticipantMisconfigured set nothing but bits 1 and 3 of `err` (60_exceptions.md R291). -/
theorem SlotFrame.raise (t : State) (s : Slot) (c : Condition)
    (hc : c = .processorJammed ∨ c = .busParticipantMisconfigured) : SlotFrame s t (t.raise c s) := by
  refine .of_own rfl ?_ (fun _ _ => rfl) ⟨rfl, rfl, rfl, rfl, rfl⟩ (fun _ _ => rfl) (fun _ _ => rfl) ⟨rfl, rfl, rfl⟩
  rw [State.raise_err, BitVec.or_assoc]
  rcases hc with rfl | rfl <;> rfl

/-- One after the other. -/
theorem SlotFrame.updDrive_raise (t : State) (s : Slot) (f : Drive → Drive) (c : Condition)
    (hf : ∀ d, (f d).fLocal = d.fLocal ∧ (f d).turbo = d.turbo ∧ (f d).en = d.en ∧ (f d).sf = d.sf ∧ (f d).sub = d.sub)
    (hc : c = .processorJammed ∨ c = .busParticipantMisconfigured) : SlotFrame s t ((t.updDrive s f).raise c s) :=
  .of_own rfl (SlotFrame.raise (t.updDrive s f) s c hc).conditions (fun _ hx => t.updDrive_drive_ne f hx)
    (by rw [State.raise_drive, t.updDrive_drive_same]; exact hf _) (fun _ _ => rfl) (fun _ _ => rfl) ⟨rfl, rfl, rfl⟩

/-- An operation that raises nothing and jams nobody. -/
theorem ErrStep.quiet {s : Slot} {t u : State} (h : u.err = t.err ∧ u.errSlot = t.errSlot)
    (hj : (u.drive s).jam = (t.drive s).jam) : ErrStep s t u := .inl ⟨h.1, h.2, hj⟩

/-- The frame is kept by everything a catch-up does. -/
theorem catchFrame_inv (T : Clock) (s0 : State) :
    CatchInv T (fun s => s0.params.isDrive s = true)
      (fun s => s0.params.isDrive s = true ∧ (s0.drive s).en = true ∧ (s0.drive s).jam = false) (CatchFrame s0) where
  nonhost s h := Params.isDrive_ne_zero h
  drives st h d hd := by
    rw [← h.kept.params]
    exact (Params.mem_driveSlots _ d).mp hd
  enter s st h hs hen hj _ := by
    have hen0 : (s0.drive s).en = true := by rw [← (h.kept.drive s).2.2.1]; exact hen
    have hj0 := h.kept.unjammed hj
    exact ⟨⟨hs, hen0, hj0⟩, h.slot hs hen0 hj0 (.updDrive st s _ (fun _ => ⟨rfl, rfl, rfl, rfl, rfl⟩))
      (.quiet ⟨rfl, rfl⟩ (by rw [State.updDrive_drive_same]))⟩
  ask s st _ hs h := h.slot hs.1 hs.2.1 hs.2.2 (.updAgent st s _) (.quiet ⟨rfl, rfl⟩ rfl)
  jam s st addr hs h _ := h.slot hs.1 hs.2.1 hs.2.2
    (.updDrive_raise st s (fun d => { d with jam := true, jamAddr := addr }) _ (fun _ => ⟨rfl, rfl, rfl, rfl, rfl⟩) (.inl rfl))
    (.inr (.inl ⟨rfl, rfl, by rw [State.raise_drive, State.updDrive_drive_same]⟩))
  ticks s st n hs h := (h.slot hs.1 hs.2.1 hs.2.2 (.updDrive st s
    (fun d => { d with localClk := st.params.addClk d.localClk (BitVec.ofNat 64 n) })
    (fun _ => ⟨rfl, rfl, rfl, rfl, rfl⟩)) (.quiet ⟨rfl, rfl⟩ (by rw [State.updDrive_drive_same]))).slot
      hs.1 hs.2.1 hs.2.2 (.updChip _ s (fun c => c.tick n)) (.quiet ⟨rfl, rfl⟩ rfl)
  read s st r v hs h := h.slot hs.1 hs.2.1 hs.2.2 (.updPart st s
    (fun x => { x with chip := x.chip.afterRead r, rmwVal := v }) (fun _ => ⟨rfl, rfl, rfl⟩)) (.quiet ⟨rfl, rfl⟩ rfl)
  hear s st b hs h := h.slot hs.1 hs.2.1 hs.2.2 (.updAgent st s _) (.quiet ⟨rfl, rfl⟩ rfl)
  store s st r x hs h := h.slot hs.1 hs.2.1 hs.2.2 (.updChip st s _) (.quiet ⟨rfl, rfl⟩ rfl)
  signal s st line e hs h := h.slot hs.1 hs.2.1 hs.2.2 (.updChip st s _) (.quiet ⟨rfl, rfl⟩ rfl)
  clamp s st hs h hm := h.slot hs.1 hs.2.1 hs.2.2 (.raise st s _ (.inr rfl)) (.inr (.inr ⟨rfl, rfl, rfl, hm⟩))
  notify s st byte hs h := h.slot hs.1 hs.2.1 hs.2.2 (SlotFrame.resolve (.updPart st s (fun x => { x with out := byte })
    (fun _ => ⟨rfl, rfl, rfl⟩))) (.quiet ⟨State.resolve_err _, State.resolve_errSlot _⟩ (by rw [State.resolve_drive]; rfl))

/-- What a catch-up leaves unchanged. -/
theorem catchUp_frame (x : Slot) (T : Clock) (s : State) (hx : s.params.isDrive x = true) : CatchFrame s (catchUp x T s) :=
  (catchUp_keeps (catchFrame_inv T s) x s hx (.refl s)).1

/-- What catching every drive up leaves unchanged. -/
theorem catchAll_frame (T : Clock) (s : State) : CatchFrame s (catchAll catchUp T s) :=
  (catchAll_keeps (catchFrame_inv T s) (catchUp_keeps (catchFrame_inv T s)) s (.refl s)).1

/-- What catching every drive but one up leaves unchanged. -/
theorem catchAllExcept_frame (x : Slot) (T : Clock) (s : State) : CatchFrame s (catchAllExcept catchUp x T s) :=
  (catchAllExcept_keeps (catchFrame_inv T s) (catchUp_keeps (catchFrame_inv T s)) x s (.refl s)).1

/-- A drive after a catch-up to `T`: its synchronisation point, stop value, carry and jam untouched, or it was behind `T`,
is at `T` now and holds the conversion of its delta. -/
def SyncedTo (T : Clock) (s0 t : State) : Prop :=
  t.params = s0.params ∧ ∀ x, (t.drive x).sf = (s0.drive x).sf ∧
    (((t.drive x).lastSync = (s0.drive x).lastSync ∧ (t.drive x).stopClk = (s0.drive x).stopClk ∧
        (t.drive x).frac = (s0.drive x).frac ∧ (t.drive x).jam = (s0.drive x).jam) ∨
      (0 < s0.params.sdiff T (s0.drive x).lastSync ∧ (t.drive x).lastSync = T ∧
        ((t.drive x).stopClk, (t.drive x).frac) = convert s0.params (s0.drive x).stopClk (s0.drive x).frac
          (s0.drive x).sf (s0.params.sdiff T (s0.drive x).lastSync).toNat))

theorem SyncedTo.refl (T : Clock) (s : State) : SyncedTo T s s := ⟨rfl, fun _ => ⟨rfl, .inl ⟨rfl, rfl, rfl, rfl⟩⟩⟩

theorem SyncedTo.of_drive {T : Clock} {s0 t u : State} (h : SyncedTo T s0 t) (hp : u.params = t.params)
    (hd : ∀ x, (u.drive x).lastSync = (t.drive x).lastSync ∧ (u.drive x).jam = (t.drive x).jam ∧
      (u.drive x).stopClk = (t.drive x).stopClk ∧ (u.drive x).frac = (t.drive x).frac ∧
      (u.drive x).sf = (t.drive x).sf) : SyncedTo T s0 u :=
  ⟨hp.trans h.1, fun x => by
    obtain ⟨a, b, c, d, e⟩ := hd x
    rw [a, b, c, d, e]
    exact h.2 x⟩

/-- A catch-up to `T` enters a slot at most once, and jams only a slot that it entered (40_clock_converter.md R145). The
conversion's delta is the one of the slot at its entry. -/
theorem syncedTo_inv (T : Clock) (s0 : State) :
    CatchInv T (· ≠ 0) (fun s => 0 < s0.params.sdiff T (s0.drive s).lastSync) (SyncedTo T s0) where
  nonhost _ h := h
  drives st _ d hd := Params.isDrive_ne_zero ((Params.mem_driveSlots _ d).mp hd)
  enter s st h _ _ _ hd := by
    obtain ⟨hsf, hx⟩ := h.2 s
    rw [h.1] at hd
    rcases hx with ⟨h1, h2, h3, h4⟩ | ⟨_, h2, _⟩
    · rw [h1] at hd
      refine ⟨hd, ?_⟩
      refine ⟨h.1, fun x => ?_⟩
      rw [State.updDrive_drive]
      split
      · rename_i e
        rw [e, h.1, h1, h2, h3, hsf]
        exact ⟨rfl, .inr ⟨hd, rfl, rfl⟩⟩
      · exact h.2 x
    · rw [h2, Params.sdiff_self] at hd
      exact absurd hd (lt_irrefl 0)
  ask s st rest _ h := h
  jam s st addr hs h hT := by
    refine ⟨h.1, fun x => ?_⟩
    rw [State.raise_drive, State.updDrive_drive]
    split
    · rename_i e
      obtain ⟨hsf, hx⟩ := h.2 s
      rw [e]
      rcases hx with ⟨h1, _⟩ | hx
      · rw [← h1, hT, Params.sdiff_self] at hs
        exact absurd hs (lt_irrefl 0)
      · exact ⟨hsf, .inr hx⟩
    · exact h.2 x
  ticks s st n _ h := by
    refine h.of_drive rfl fun x => ?_
    rw [State.chipTick_drive, State.updDrive_drive]
    split
    · rename_i e
      rw [e]
      exact ⟨rfl, rfl, rfl, rfl, rfl⟩
    · exact ⟨rfl, rfl, rfl, rfl, rfl⟩
  read s st r v _ h := h
  hear s st b _ h := h
  store s st r x _ h := h
  signal s st line e _ h := h
  clamp s st _ h _ := h
  notify s st byte _ h := h.of_drive (by simp) fun x => by simp [State.resolve_drive]

/-- Where a catch-up leaves the synchronisation points. -/
theorem catchUp_syncedTo (x : Slot) (hx : x ≠ 0) (T : Clock) (s : State) : SyncedTo T s (catchUp x T s) :=
  (catchUp_keeps (syncedTo_inv T s) x s hx (.refl T s)).1

/-- A catch-up of a slot that is enabled, not jammed and behind leaves it at the target (40_clock_converter.md R137). -/
theorem catchUp_arrives (x : Slot) (hx : x ≠ 0) (T : Clock) (s : State) (hen : (s.drive x).en = true)
    (hj : (s.drive x).jam = false) (hd : 0 < s.params.sdiff T (s.drive x).lastSync) :
    ((catchUp x T s).drive x).lastSync = T := by
  rcases catchUpWith_cases (catchUpTo 15) x T s with ⟨h, _⟩ | ⟨_, _, _, e⟩
  · rcases h with h | h | h
    · rw [hen] at h
      cases h
    · rw [hj] at h
      cases h
    · omega
  · show ((catchUpWith (catchUpTo 15) x T s).drive x).lastSync = T
    rw [e]
    obtain ⟨hs, hI⟩ := (syncedTo_inv T s).enter x s (.refl T s) hx hen hj hd
    exact (run_keeps (syncedTo_inv T s) (catchUpTo_keeps (syncedTo_inv T s) 15) hs hx _ _ hI (by simp)).2 x (by simp)

end Sys2Proof.Machine
end

