-- ==== Sys2Proof/Laws/Exec.lean ====
section
/-! SUPPORT. The shape every command has, and the register accesses of a chip in closed form (spec/43_peripheral_chip.md R206,
R207). -/

namespace Sys2Proof.Machine

theorem driveCommand_eq (st : State) (s : Slot) (f : State → State) :
    driveCommand st s f = command st (fun x => if x.params.isDrive s then f x else x.raise .slotOutOfRange s) := rfl

theorem partCommand_eq (st : State) (p : Slot) (f : State → State) :
    partCommand st p f = command st (fun x => if x.params.isPart p then f x else x.raise .slotOutOfRange p) := rfl

theorem eq_command_of_drive {g : State → Host.Outcome State Fault Refusal} (s : Slot) (f : State → State)
    (h : g = fun st => driveCommand st s f) : ∃ f : State → State, ∀ st, g st = command st f :=
  ⟨_, fun st => by rw [h]; exact driveCommand_eq st s f⟩

theorem eq_command_of_part {g : State → Host.Outcome State Fault Refusal} (p : Slot) (f : State → State)
    (h : g = fun st => partCommand st p f) : ∃ f : State → State, ∀ st, g st = command st f :=
  ⟨_, fun st => by rw [h]; exact partCommand_eq st p f⟩

/-- Every command but MRESET is its effect, taken unless the block is in the fatal state (60_exceptions.md R297). -/
theorem exec_eq_command (i : Instr) (h : i ≠ .mreset) : ∃ f : State → State, ∀ s, exec i s = command s f := by
  cases i
  case mreset => exact absurd rfl h
  case setfdrv opb => exact ⟨_, fun _ => rfl⟩
  case clrerr => exact ⟨_, fun _ => rfl⟩
  case csrrd slot sel opb => exact ⟨_, fun _ => rfl⟩
  case syncall opa => exact ⟨_, fun _ => rfl⟩
  case advance opb => exact ⟨_, fun _ => rfl⟩
  case maybereb opa => exact ⟨_, fun _ => rfl⟩
  case resolve => exact ⟨_, fun _ => rfl⟩
  all_goals first | exact eq_command_of_drive _ _ rfl | exact eq_command_of_part _ _ rfl

/-- A read of any register but the host's port B: the value, the side effect of the register, and the latch
(43_peripheral_chip.md R206). -/
theorem chipRead_plain {catchIt : CatchUp} {p : Slot} {r : ChipReg} (h : p ≠ 0 ∨ r ≠ .pb) (clk : Clock) (st : State) :
    chipRead catchIt p r clk st =
      ((st.chip p).readValue r st.bus (st.part p).paIn,
        st.updPart p (fun x => { x with
          chip := x.chip.afterRead r
          rmwVal := (st.chip p).readValue r st.bus (st.part p).paIn })) := by
  have h' : ¬ (p = 0 ∧ r = .pb) := by tauto
  unfold chipRead
  rw [if_neg h']

/-- The host's read of port B: everybody is caught up and the bus resolved first (43_peripheral_chip.md R208). -/
theorem chipRead_host {catchIt : CatchUp} (clk : Clock) (st : State) :
    let u := (catchAll catchIt clk st).resolve
    chipRead catchIt 0 .pb clk st =
      ((u.chip 0).readValue .pb u.bus (u.part 0).paIn,
        u.updPart 0 (fun x => { x with rmwVal := (u.chip 0).readValue .pb u.bus (u.part 0).paIn })) := by
  intro u
  unfold chipRead
  rw [if_pos ⟨rfl, rfl⟩]
  rfl

/-- A store to any register but PB and DDRB writes the chip and nothing else, the latched byte first when it is the write
phase of a read-modify-write (43_peripheral_chip.md R207). -/
theorem chipStore_plain {catchIt : CatchUp} {r : ChipReg} (h : notifiesArbiter r = false) (p : Slot) (b : Byte) (rmw : Bool)
    (clk : Clock) (st : State) :
    chipStore catchIt p r b rmw clk st =
      st.updChip p (fun c => (if rmw then c.store r (st.part p).rmwVal else c).store r b) := by
  cases rmw
  · simp [chipStore, storeOne, h]
  · simp [chipStore, storeOne, h, State.updChip, State.updPart, State.part]

/-- A store to PB or DDRB writes the chip and notifies the arbiter (43_peripheral_chip.md R209, R213; 42_bus_arbiter.md R182). -/
theorem storeOne_notifies {catchIt : CatchUp} {r : ChipReg} (h : notifiesArbiter r = true) (p : Slot) (x : Byte) (clk : Clock)
    (st : State) :
    let c := (st.chip p).store r x
    storeOne catchIt p r x clk st =
      outChg catchIt p c.effOut c.drivesActively clk (st.updChip p (fun c => c.store r x)) := by
  simp [storeOne, h]

/-- Writing `RES` with a byte. -/
theorem State.setRes_byte (st : State) (v : Byte) : st.setRes v.toNat = { st with res := v.setWidth 64 } := by
  have hw : st.params.wrap (BitVec.ofNat 64 v.toNat) = v.setWidth 64 := by
    apply BitVec.eq_of_toNat_eq
    have hv := v.isLt
    rw [Params.wrap_toNat]
    cases st.params.clkW <;> simp [ClockWidth.bits] <;> omega
  rw [State.setRes, hw]

end Sys2Proof.Machine
end

