-- ==== Sys2Proof/Tests/Slice0.lean ====
section
/-! SUPPORT. Tests. The expected values are those of spec/95_test_vectors.md (the vector is named) or hand calculations from
the cited rule; the words of the decoding tests are written out from spec/30_encoding.md R101, R102 and R104. The last part
shows, for each statement with hypotheses, a state and operands that meet them. -/

namespace Sys2Proof.Tests

set_option Elab.async false

open Sys2Proof.Machine

/-! Helpers. -/

/-- What a test looks at in the next state; none when there is no next state. -/
def see {α : Type} (o : Host.Outcome State Fault Refusal) (f : State → α) : Option α :=
  match o with
  | .next t => some (f t)
  | .fault _ => none
  | .refused _ => none

/-- A looked-at next state exists. -/
theorem next_of_see {α : Type} {o : Host.Outcome State Fault Refusal} {f : State → α} {v : α} (h : see o f = some v) :
    ∃ t, o = .next t ∧ f t = v := by
  cases o with
  | next t => exact ⟨t, rfl, by simpa [see] using h⟩
  | fault r => simp [see] at h
  | refused r => simp [see] at h

/-- The next state, or the state itself where there is none. -/
def after (i : Instr) (s : State) : State :=
  match exec i s with
  | .next t => t
  | .fault _ => s
  | .refused _ => s

/-- A command that completes gives the state `after` names. -/
theorem exec_after {i : Instr} {s : State} (h : (see (exec i s) (fun _ => ())).isSome = true) :
    exec i s = .next (after i s) := by
  unfold after
  cases hs : exec i s with
  | next t => rfl
  | fault r => simp [hs, see] at h
  | refused r => simp [hs, see] at h

/-- An instruction of a secondary processor that takes `k` ticks and makes no access. -/
def idle (k : Nat) : ScriptAnswer := .instr k []

/-- The block after reset with drives 1 and 2 enabled at the ratio 1:1 and the answers of their agents fixed. -/
def bench (first second : List ScriptAnswer) : State :=
  let ratioOne := fun (r : Drive) => { r with fLocal := 1000000, sf := 65536, en := true }
  let s := ({ State.reset with fDrive := 1000000 }.updDrive 1 ratioOne).updDrive 2 ratioOne
  (s.updAgent 1 (fun a => { a with script := first })).updAgent 2 (fun a => { a with script := second })

/-- The block after reset with CLK_W = 32 and that width's defaults of the guard (VG3). -/
def narrow : State :=
  { State.reset with params :=
    { Params.reference with clkW := .w32, highWater := 0xFEFFFFFF, rebaseChunk := 0x80000000 } }

/-- The block after reset with chip 1 changed. -/
def withChip (f : Chip → Chip) : State := State.reset.updChip 1 f

/-- The chip of VP5. -/
def timerChip : State := withChip (fun c => { c with
  t1 := { count := 0x1234, latch := 0xABCD, run := false }, t2 := { count := 0x5678, latch := 0x9AEF, run := false } })

/-- A block with a jammed drive 1 (VS2). -/
def jammed : State := ((bench [] []).updDrive 1 (fun r => { r with
  jam := true, jamAddr := 0x1234, localClk := 100, stopClk := 200, frac := 777, lastSync := 200 })).updChip 1
    (fun c => { c with ier := 0x1F })

/-- The bytes of VS6 with one byte replaced. -/
def chipBlock (k : Nat) (b : Byte) : List Byte :=
  [0x43, 1, 0, 0, 0, 0, 0, 0, 0, 0, 0, 0, 0, 0, 0, 0, 0, 0, 0, 0, 0, 0x0F, 0, 0xFF].set k b

/-! Well-formedness: each check refuses an ill-formed term. -/

theorem test_reset_params_legal : State.reset.params.legal = true := by decide +kernel
theorem test_narrow_params_legal : narrow.params.legal = true := by decide +kernel
theorem test_wf_accepts : (Instr.catchup 4 1000).wellFormed narrow.params = true := by decide +kernel
theorem test_wf_refuses_drive_slot_0 : (Instr.catchup 0 1000).wellFormed narrow.params = false := by decide +kernel
theorem test_wf_refuses_drive_slot_5 : (Instr.fast 5 .hostToDrive 0).wellFormed narrow.params = false := by decide +kernel
theorem test_wf_refuses_part_slot_5 : (Instr.rdPb 5 0).wellFormed narrow.params = false := by decide +kernel
theorem test_wf_refuses_selector_slot : (Instr.csrrd 1 .err 0).wellFormed narrow.params = false := by decide +kernel
theorem test_wf_refuses_table_index : (Instr.csrrd 1 .tabInt 4097).wellFormed narrow.params = false := by decide +kernel
theorem test_wf_refuses_wide_clock : (Instr.maybereb 0x100000000).wellFormed narrow.params = false := by decide +kernel
theorem test_illegal_params_refused :
    ({ Params.reference with rebaseChunk := 0 }).legal = false ∧ ({ Params.reference with ndrives := 16 }).legal = false ∧
    ({ Params.reference with horizon := 0 }).legal = false ∧ ({ Params.reference with clkW := .w32 }).legal = false := by
  decide +kernel

/-- 00_scope.md R6 bounds K_MAX from below only. -/
theorem test_large_k_max_legal : ({ Params.reference with kMax := 2 ^ 100 }).legal = true ∧
    ({ Params.reference with kMax := 0 }).legal = false := by decide +kernel

/-! Decoding: a word of every row. -/

theorem test_decode_system :
    decodeTableWord 32 0x01000000 = some .mreset ∧ decodeTableWord 32 0x02100000 = some (.dreset 1 0) ∧
    decodeTableWord 32 0x03F00000 = some (.dhreset 15 0) ∧ decodeTableWord 32 0x04200000 = some (.dbgatt 2 0) ∧
    decodeTableWord 32 0x05000000 = some .clrerr ∧ decodeTableWord 32 0x061B0000 = some (.csrrd 1 .tabInt 0) ∧
    decodeTableWord 32 0x061E0000 = some (.csrrd 1 .fLoc 0) ∧
    decodeTableWord 32 0x07110000 = some (.snapsave 1 .chip 0) ∧ decodeTableWord 32 0x07100000 = some (.snapsave 1 .pctx 0) ∧
    decodeTableWord 32 0x08110000 = some (.snapload 1 .chip []) := by decide +kernel

theorem test_decode_converter :
    decodeTableWord 32 0x10000000 = some (.setfdrv 0) ∧ decodeTableWord 32 0x11100000 = some (.setfloc 1 0) ∧
    decodeTableWord 32 0x12100001 = some (.setturbo 1 true) ∧ decodeTableWord 32 0x13100000 = some (.enable 1 0) ∧
    decodeTableWord 32 0x14100000 = some (.disable 1) ∧ decodeTableWord 32 0x15100000 = some (.catchup 1 0) ∧
    decodeTableWord 32 0x16000000 = some (.syncall 0) ∧ decodeTableWord 32 0x17100000 = some (.idletrap 1) := by
  decide +kernel

theorem test_decode_guard_and_arbiter :
    decodeTableWord 32 0x20300000 = some (.greg 3) ∧ decodeTableWord 32 0x21000000 = some (.advance 0) ∧
    decodeTableWord 32 0x22000000 = some (.maybereb 0) ∧ decodeTableWord 32 0x3010047F = some (.outchg 1 true 0x7F 0) ∧
    decodeTableWord 32 0x301000FE = some (.outchg 1 false 0xFE 0) ∧ decodeTableWord 32 0x31000000 = some .resolve ∧
    decodeTableWord 32 0x32100001 = some (.setmode 1 .active) ∧ decodeTableWord 32 0x33000001 = some (.fastneg 0 true) ∧
    decodeTableWord 32 0x341000A5 = some (.fast 1 .hostToDrive 0xA5) ∧
    decodeTableWord 32 0x3410083C = some (.fast 1 .driveToHost 0x3C) := by decide +kernel

theorem test_decode_reads :
    decodeTableWord 32 0x40100000 = some (.rdPb 1 0) ∧ decodeTableWord 32 0x40110000 = some (.rdPa 1 0) ∧
    decodeTableWord 32 0x40120000 = some (.rdDdrb 1 0) ∧ decodeTableWord 32 0x40130000 = some (.rdDdra 1 0) ∧
    decodeTableWord 32 0x40140000 = some (.rdT1cl 1 0) ∧ decodeTableWord 32 0x40150000 = some (.rdT1ch 1 0) ∧
    decodeTableWord 32 0x40160000 = some (.rdT1ll 1 0) ∧ decodeTableWord 32 0x40170000 = some (.rdT1lh 1 0) ∧
    decodeTableWord 32 0x40180000 = some (.rdT2cl 1 0) ∧ decodeTableWord 32 0x40190000 = some (.rdT2ch 1 0) ∧
    decodeTableWord 32 0x401A0000 = some (.rdT2ll 1 0) ∧ decodeTableWord 32 0x401B0000 = some (.rdT2lh 1 0) ∧
    decodeTableWord 32 0x401C0000 = some (.rdSr 1 0) ∧ decodeTableWord 32 0x401D0000 = some (.rdCr 1 0) ∧
    decodeTableWord 32 0x401E0000 = some (.rdIfr 1 0) ∧ decodeTableWord 32 0x401F0000 = some (.rdIer 1 0) := by
  decide +kernel

theorem test_decode_writes :
    decodeTableWord 32 0x4110017F = some (.wrPb 1 true 0x7F 0) ∧ decodeTableWord 32 0x411100AA = some (.wrPa 1 false 0xAA 0) ∧
    decodeTableWord 32 0x41020080 = some (.wrDdrb 0 false 0x80 0) ∧ decodeTableWord 32 0x4113000F = some (.wrDdra 1 false 15 0) ∧
    decodeTableWord 32 0x41040002 = some (.wrT1cl 0 false 2 0) ∧ decodeTableWord 32 0x41150000 = some (.wrT1ch 1 false 0 0) ∧
    decodeTableWord 32 0x41160001 = some (.wrT1ll 1 false 1 0) ∧ decodeTableWord 32 0x41170001 = some (.wrT1lh 1 false 1 0) ∧
    decodeTableWord 32 0x41180001 = some (.wrT2cl 1 false 1 0) ∧ decodeTableWord 32 0x41190001 = some (.wrT2ch 1 false 1 0) ∧
    decodeTableWord 32 0x411A0001 = some (.wrT2ll 1 false 1 0) ∧ decodeTableWord 32 0x411B0001 = some (.wrT2lh 1 false 1 0) ∧
    decodeTableWord 32 0x411C0000 = some (.wrSr 1 false 0 0) ∧ decodeTableWord 32 0x411D00FF = some (.wrCr 1 false 0xFF 0) ∧
    decodeTableWord 32 0x411E0100 = some (.wrIfr 1 true 0 0) ∧ decodeTableWord 32 0x411F00FF = some (.wrIer 1 false 0xFF 0) := by
  decide +kernel

theorem test_decode_inputs :
    decodeTableWord 32 0x42100200 = some (.signal 1 .cl1 .rise) ∧ decodeTableWord 32 0x42110000 = some (.signal 1 .cl2 .fall) ∧
    decodeTableWord 32 0x42120200 = some (.signal 1 .cl3 .rise) ∧ decodeTableWord 32 0x42130000 = some (.signal 1 .cl4 .fall) ∧
    decodeTableWord 32 0x4310003C = some (.pina 1 0x3C) := by decide +kernel

/-- VD1 to VD10: words that spell nothing. -/
theorem test_decode_refuses :
    [0x00000000, 0x09000000, 0xFF300000, 0x01000001, 0x40101000, 0x41100200, 0x12100002, 0x42140000, 0x30100C7F,
      0x060F0000].map (decodeTableWord 32) = List.replicate 10 none := by decide +kernel

/-- The operand bits of a longer table word: OPA is bits 95:32 (log entry 18). -/
theorem test_decode_operand : decodeTableWord 96 (0x15100000 + 0x2710 * 2 ^ 32) = some (.catchup 1 10000) := by
  decide +kernel

/-! Stepping. -/

/-- VD3. -/
theorem test_step_illegal_word :
    see (step (State.reset.withFetchWord 32 0xFF300000)) (fun t => (t.err, t.errSlot)) = some (0x081, 3) := by decide +kernel
/-- VD13. -/
theorem test_step_out_of_range :
    see (step (State.reset.withFetchWord 32 0x15500000)) (fun t => (t.err, t.errSlot)) = some (0x021, 5) := by decide +kernel
/-- VD18: the first command after reset reads a chip and the port is empty again. -/
theorem test_step_rd_pb :
    see (step (State.reset.withFetchWord 32 0x40400000)) (fun t => (t.res, t.err, t.port)) = some (0xFF, 0, []) := by
  decide +kernel
/-- VD19: the fatal state ignores ADVANCE. -/
theorem test_step_fatal_ignores :
    see (exec (.advance 5) { State.reset with err := 0x081 }) (fun t => (t.authClk, t.err)) = some (0, 0x081) := by
  decide +kernel
theorem test_step_illegal_params_refused :
    step { State.reset with params := { Params.reference with rebaseChunk := 0 } } = .refused .illegalParameters := by
  rfl

/-! System commands. -/

/-- VD20, VS1. -/
theorem test_mreset :
    see (exec .mreset { jammed with err := 0x081, errSlot := 3, res := 7 }) (fun t =>
      ((t.err, t.errSlot, t.res, t.bus), (t.drive 1).jam, (t.chip 1).cl, (t.part 1).paIn))
      = some ((0, 0, 0, 0xFF), false, 0xF, 0xFF) := by decide +kernel
/-- VS2. -/
theorem test_dreset :
    see (exec (.dreset 1 5000) jammed) (fun t => (t.drive 1, t.chip 1)) = some
      ({ jammed.drive 1 with jam := false, jamAddr := 0, stopClk := 100, frac := 0, lastSync := 5000 }, .reset) := by
  decide +kernel
/-- VS2: the agent is told `hard`. -/
theorem test_dhreset :
    see (exec (.dhreset 1 5000) jammed) (fun t => ((t.drive 1).lastSync, (t.chip 1).ier, (t.agent 1).history))
      = some (5000, 0, [.wasReset .hard]) := by decide +kernel
/-- VS3. -/
theorem test_dbgatt :
    see (exec (.dbgatt 1 7000) jammed) (fun t => (t.drive 1, (t.chip 1).ier)) = some
      ({ jammed.drive 1 with jam := false, stopClk := 100, lastSync := 7000 }, 0x1F) := by decide +kernel
/-- VS4. -/
theorem test_clrerr :
    see (exec .clrerr { jammed with err := 0b0100001010, errSlot := 1 }) (fun t => (t.err, t.errSlot, (t.drive 1).jam))
      = some (0, 0, true) := by decide +kernel
/-- VS5. -/
theorem test_csrrd_err :
    see (exec (.csrrd 0 .err 0) { jammed with err := 0x002, errSlot := 1 }) (fun t => t.res) = some 0x1002 := by
  decide +kernel
/-- VS5, VC2: a jammed enabled drive's SCTL, and the last table entry at sf = 21845. -/
theorem test_csrrd_drive :
    see (exec (.csrrd 1 .sctl 0) jammed) (fun t => t.res) = some 0x11 ∧
    see (exec (.csrrd 1 .tabInt 4096) (jammed.updDrive 1 (fun r => { r with sf := 21845 }))) (fun t => t.res) = some 1365 ∧
    see (exec (.csrrd 1 .tabFrac 4096) (jammed.updDrive 1 (fun r => { r with sf := 21845 }))) (fun t => t.res)
      = some 20480 := by decide +kernel
/-- VS6. -/
theorem test_snapsave_chip :
    see (exec (.snapsave 1 .chip 2000) State.reset) (fun t => (t.sdat, t.res)) = some (chipBlock 0 0x43, 0) := by
  decide +kernel
/-- VS8, with opaque fields of zeros. -/
theorem test_snapsave_pctx :
    see (exec (.snapsave 1 .pctx 10000) ((State.reset.updDrive 1 (fun r => { r with
        localClk := 10152, frac := 45136, stopClk := 10149, lastSync := 10000 })).updAgent 1 (fun a =>
        { a with image := some { cpuRegs := [], lastOpcode := [], intStatus := [], ram := [] } }))) (fun t => t.sdat)
      = some ([0x50, 1, 0, 0xA8, 0x27, 0, 0, 0, 0, 0, 0] ++ List.replicate 8 0 ++ [0x50, 0xB0, 0xA5, 0x27, 0, 0, 0, 0, 0, 0,
        0x10, 0x27, 0, 0, 0, 0, 0, 0, 0, 0, 0]) := by decide +kernel
/-- VS9. -/
theorem test_snapload_refuses :
    [chipBlock 2 1, chipBlock 1 2, chipBlock 1 0, (chipBlock 0 0x43).take 23, chipBlock 0 0x50, chipBlock 7 0x20,
      chipBlock 18 8, (chipBlock 0 0x50).set 1 2].map (fun d => see (exec (.snapload 1 .chip d) State.reset) (fun t => t.res))
      = [some 4, some 4, some 0, some 9, some 9, some 9, some 9, some 9] := by decide +kernel
/-- The block of test_snapsave_pctx with the jam flag set, loaded into slot 2 (20_memory.md R80). -/
theorem test_snapload_pctx :
    see (exec (.snapload 2 .pctx ([0x50, 1, 0, 0xA8, 0x27, 0, 0, 0, 0, 0, 0] ++ List.replicate 8 0 ++ [0x50, 0xB0, 0xA5, 0x27,
        0, 0, 0, 0, 0, 0, 0x10, 0x27, 0, 0, 0, 0, 0, 0, 1, 0x34, 0x12])) State.reset) (fun t => t.drive 2)
      = some { Drive.reset with
        localClk := 10152, frac := 45136, stopClk := 10149, lastSync := 10000, jam := true, jamAddr := 0x1234 } := by decide +kernel

/-! Converter. -/

/-- VC1. -/
theorem test_sf_compute :
    sfCompute 1000000 false 985248 = some 66517 ∧ sfCompute 1000000 true 985248 = some 133034 ∧
    sfCompute 1 false 3 = some 21845 ∧ sfCompute 65535 false 1 = some 0xFFFF0000 ∧ sfCompute 65536 false 1 = none ∧
    sfCompute 5 false 0 = some 0 := by decide +kernel
/-- VC3. -/
theorem test_setfdrv :
    see (exec (.setfdrv 15) (bench [] [])) (fun t => (t.fDrive, (t.drive 1).sf, t.err, t.errSlot))
      = some (1000000, 65536, 0x040, 0) ∧
    see (exec (.setfdrv 16) (bench [] [])) (fun t => (t.fDrive, (t.drive 1).sf, (t.drive 3).sf, t.err))
      = some (16, 4096000000, 0, 0) := by decide +kernel
/-- VC4. -/
theorem test_setfloc :
    see (exec (.setfloc 1 1000000) { State.reset with fDrive := 985248 }) (fun t => ((t.drive 1).fLocal, (t.drive 1).sf))
      = some (1000000, 66517) ∧
    see (exec (.setfloc 1 65536) { State.reset with fDrive := 1 }) (fun t => ((t.drive 1).fLocal, t.err, t.errSlot))
      = some (0, 0x040, 1) := by decide +kernel
/-- VC5. -/
theorem test_setturbo :
    see (exec (.setturbo 1 true) { bench [] [] with fDrive := 985248 }) (fun t => ((t.drive 1).turbo, (t.drive 1).sf))
      = some (true, 133034) ∧
    see (exec (.setturbo 2 true) { bench [] [] with params := { Params.reference with turboCap := .fill false } })
      (fun t => ((t.drive 2).turbo, t.err, t.errSlot)) = some (false, 0x040, 2) := by decide +kernel
/-- VC6. -/
theorem test_enable :
    [16777316, 16777317, 50].map (fun c => see (exec (.enable 1 c) (State.reset.updDrive 1 (fun r =>
      { r with lastSync := 100 }))) (fun t => ((t.drive 1).en, (t.drive 1).lastSync)))
      = [some (true, 100), some (true, 16777317), some (true, 100)] := by decide +kernel
/-- VC7. -/
theorem test_disable :
    see (exec (.disable 1) { (bench [] []).updPart 1 (fun x =>
        { x with out := 0x7F, fastneg := true, chip := { x.chip with ddrb := 0x80, ifr := 1 } }) with bus := 0x7F, atn := false })
      (fun t => ((t.chip 1, (t.part 1).out, (t.part 1).fastneg, (t.drive 1).en), t.bus, t.atn, (t.chip 0).ifr, (t.chip 2).ifr))
      = some ((.reset, 0xFF, false, false), 0xFF, true, 1, 1) := by decide +kernel
/-- VC8, with the carry; the drive's processor is already past the stop value. -/
theorem test_catchup_credits :
    see (exec (.catchup 1 1) ((bench [] []).updDrive 1 (fun r =>
        { r with sf := 66517, stopClk := 100, frac := 65000, localClk := 200 }))) (fun t =>
      ((t.drive 1).stopClk, (t.drive 1).frac, (t.drive 1).lastSync)) = some (102, 445, 1) := by decide +kernel
/-- VC11. -/
theorem test_catchup_runs :
    see (exec (.catchup 1 10) (bench [idle 7, idle 7, idle 7] [])) (fun t =>
      ((t.drive 1).stopClk, (t.drive 1).localClk, (t.agent 1).script)) = some (10, 14, [idle 7]) := by decide +kernel
/-- VC12, from 1000 to 1002. -/
theorem test_syncall :
    let at1000 := fun (r : Drive) => { r with localClk := 1000, stopClk := 1000, lastSync := 1000 }
    see (exec (.syncall 1002) (((bench [idle 1, idle 1] [idle 1, idle 1]).updDrive 1 at1000).updDrive 2 at1000)) (fun t =>
      ((t.drive 1).localClk, (t.drive 2).localClk, (t.drive 2).lastSync, (t.drive 3).lastSync))
      = some (1002, 1002, 1002, 0) := by decide +kernel
/-- VC13. -/
theorem test_idletrap :
    see (exec (.idletrap 1) (((bench [] []).updDrive 1 (fun r => { r with stopClk := 500 })).updChip 1 (fun c =>
        { c with t1 := { count := 99, latch := 0, run := true } }))) (fun t =>
      ((t.drive 1).localClk, (t.chip 1).t1, (t.chip 1).ifr))
      = some (100, { count := 0, latch := 0, run := false }, 0b00100) := by decide +kernel

/-! Guard. -/

/-- VG1. -/
theorem test_greg :
    see (exec (.greg 1) State.reset) (fun t => ((t.drive 1).sub, (t.drive 2).sub)) = some (true, false) := by decide +kernel
/-- VG2, VP3: the width wraps, and the host's one-shot timer expires. -/
theorem test_advance :
    see (exec (.advance 2) { narrow with authClk := 0xFFFFFFFF }) (fun t => t.authClk) = some 1 ∧
    see (exec (.advance 1003) (State.reset.updChip 0 (fun c => { c with t1 := { count := 2, latch := 2, run := true } })))
      (fun t => ((t.chip 0).t1.count, (t.chip 0).t1.run, (t.chip 0).ifr)) = some (0, false, 0b00100) := by decide +kernel
/-- VG3, VG4. -/
theorem test_maybereb :
    see (exec (.maybereb 0xFF000000) (({ narrow with authClk := 0xFF000000 }.updDrive 1 (fun r =>
        { r with sub := true, lastSync := 0xFEFFFF00, localClk := 0x10, stopClk := 0x20 })).updDrive 2 (fun r =>
        { r with lastSync := 0xFEFFF000 }))) (fun t =>
      (t.res, t.authClk, (t.drive 1).lastSync, (t.drive 1).localClk, (t.drive 1).stopClk, (t.drive 2).lastSync))
      = some (0x80000000, 0x7F000000, 0x7EFFFF00, 0x80000010, 0x80000020, 0xFEFFF000) := by decide +kernel
/-- VG3: equal does not exceed. -/
theorem test_maybereb_at_the_mark :
    see (exec (.maybereb 0xFEFFFFFF) { narrow with authClk := 0xFEFFFFFF, res := 9 }) (fun t => (t.res, t.authClk))
      = some (0, 0xFEFFFFFF) := by decide +kernel

/-! Arbiter. -/

/-- VA2. -/
theorem test_outchg :
    see (exec (.outchg 0 false 0x7F 1000) (State.reset.updDrive 1 (fun r => { r with en := true }))) (fun t =>
      (((t.drive 1).lastSync, (t.part 0).out, t.bus, t.atn), (t.chip 0).ifr, (t.chip 1).cl, (t.chip 2).ifr))
      = some ((1000, 0x7F, 0x7F, false), 1, 0b1110, 0) := by decide +kernel
/-- VA5. -/
theorem test_outchg_misconfigured :
    see (exec (.outchg 1 true 0x7F 0) (State.reset.updDrive 1 (fun r => { r with en := true }))) (fun t =>
      (t.err, t.errSlot, t.bus)) = some (0x008, 1, 0x7F) := by decide +kernel
/-- VA1. -/
theorem test_resolve :
    see (exec .resolve (((((bench [] []).updPart 1 (fun x => { x with out := 0x7E })).updPart 2 (fun x =>
      { x with out := 0xFD })).updPart 3 (fun x => { x with out := 0 })))) (fun t => (t.bus, t.atn))
      = some (0x7C, false) := by decide +kernel
/-- 42_bus_arbiter.md R175, R179: with an active formula that pulls every line, SETMODE shows at once. -/
theorem test_setmode :
    see (exec (.setmode 0 .active) { State.reset with params := { Params.reference with fActive := [(0xFF, 0x3F)] } })
      (fun t => ((t.part 0).mode, t.bus, t.atn, (t.chip 0).ifr)) = some (.active, 0x3F, false, 1) := by decide +kernel
/-- 42_bus_arbiter.md R180. -/
theorem test_fastneg :
    see (exec (.fastneg 1 true) State.reset) (fun t => ((t.part 1).fastneg, (t.part 0).fastneg)) = some (true, false) := by
  decide +kernel

/-- The block of VA7 with both ends negotiated and SREN set in chips 0 and 1. -/
def negotiated : State :=
  let ready := fun (x : Part) => { x with fastneg := true, chip := { x.chip with cr := 0b0100 } }
  ((bench [] []).updPart 0 ready).updPart 1 ready

/-- VA7. -/
theorem test_fast :
    see (exec (.fast 1 .hostToDrive 0xA5) negotiated) (fun t => ((t.chip 1).sr, (t.chip 1).ifr, (t.chip 1).cl, (t.chip 0).sr))
      = some (0xA5, 0b10000, 0xF, 0) ∧
    see (exec (.fast 1 .driveToHost 0x3C) negotiated) (fun t => ((t.chip 0).sr, (t.chip 0).cl, (t.chip 1).sr))
      = some (0x3C, 0b0111, 0) := by decide +kernel
/-- VA7: refused. -/
theorem test_fast_refused :
    see (exec (.fast 1 .hostToDrive 0xA5) (bench [] [])) (fun t => (t.err, t.errSlot, (t.chip 1).sr))
      = some (0x100, 1, 0) := by decide +kernel

/-! Chip reads. -/

/-- VP2. -/
theorem test_rd_pb :
    see (exec (.rdPb 1 0) { withChip (fun c => { c with orb := 0x05, ddrb := 0x0F }) with bus := 0x75 }) (fun t =>
      (t.res, (t.part 1).rmwVal)) = some (0x75, 0x75) := by decide +kernel
/-- 43_peripheral_chip.md R208: the host's read catches the drives up. -/
theorem test_rd_pb_host :
    see (exec (.rdPb 0 2) ((bench [idle 2] [idle 2]).updPart 1 (fun x => { x with out := 0xFE }))) (fun t =>
      (t.res, (t.drive 1).localClk, (t.drive 2).lastSync)) = some (0xFE, 2, 2) := by decide +kernel
/-- VP2. -/
theorem test_rd_pa :
    see (exec (.rdPa 1 0) ((withChip (fun c => { c with ora := 0xF0, ddra := 0xF0 })).updPart 1 (fun x =>
      { x with paIn := 0x3C }))) (fun t => t.res) = some 0xFC := by decide +kernel
theorem test_rd_ddr :
    see (exec (.rdDdrb 1 0) (withChip (fun c => { c with ddrb := 0x81 }))) (fun t => t.res) = some 0x81 ∧
    see (exec (.rdDdra 1 0) (withChip (fun c => { c with ddra := 0x42 }))) (fun t => t.res) = some 0x42 := by decide +kernel
/-- VP5. -/
theorem test_rd_timer_1 :
    [Instr.rdT1cl 1 0, .rdT1ch 1 0, .rdT1ll 1 0, .rdT1lh 1 0].map (fun i => see (exec i timerChip) (fun t => t.res))
      = [some 0x34, some 0x12, some 0xCD, some 0xAB] := by decide +kernel
theorem test_rd_timer_2 :
    [Instr.rdT2cl 1 0, .rdT2ch 1 0, .rdT2ll 1 0, .rdT2lh 1 0].map (fun i => see (exec i timerChip) (fun t => t.res))
      = [some 0x78, some 0x56, some 0xEF, some 0x9A] := by decide +kernel
/-- VP9. -/
theorem test_rd_sr :
    see (exec (.rdSr 1 0) (withChip (fun c => { c with sr := 0xA5, ifr := 0b10000 }))) (fun t => (t.res, (t.chip 1).ifr))
      = some (0xA5, 0b10000) := by decide +kernel
/-- VP8. -/
theorem test_rd_cr :
    see (exec (.rdCr 1 0) State.reset) (fun t => t.res) = some 0xF0 ∧
    see (exec (.rdCr 1 0) (withChip (fun c => { c with cr := 0xF, cl := 0b1011 }))) (fun t => t.res) = some 0xBF := by
  decide +kernel
/-- VP6. -/
theorem test_rd_ifr :
    see (exec (.rdIfr 1 0) (withChip (fun c => { c with ifr := 0b00101, ier := 0b00001 }))) (fun t =>
      (t.res, (t.chip 1).ifr, (t.chip 1).irq, (t.part 1).rmwVal)) = some (0x85, 0b00100, false, 0x85) := by decide +kernel
/-- VP7. -/
theorem test_rd_ier :
    see (exec (.rdIer 1 0) (withChip (fun c => { c with ier := 0b11111 }))) (fun t => t.res) = some 0x1F := by decide +kernel

/-! Chip stores. -/

/-- VP14. -/
theorem test_wr_ddrb :
    see (exec (.wrDdrb 0 false 0x80 0) State.reset) (fun t => ((t.chip 0).ddrb, (t.part 0).out, t.bus, t.atn, (t.chip 0).ifr))
      = some (0x80, 0x7F, 0x7F, false, 1) := by decide +kernel
/-- VP14: ACTV set with the pull-only formula. -/
theorem test_wr_pb :
    see (exec (.wrPb 1 false 0xFF 0) (withChip (fun c => { c with cr := 0x8 }))) (fun t =>
      ((t.chip 1).orb, t.err, t.errSlot)) = some (0xFF, 0x008, 1) := by decide +kernel
/-- VP11 (b): the glitch of the double write. -/
theorem test_wr_pb_rmw :
    see (exec (.wrPb 1 true 0x7F 0) { (bench [] []).updPart 1 (fun x => { x with out := 0x7F, rmwVal := 0xFF, chip := { x.chip with
        ddrb := 0xFF, orb := 0x7F, cl := 0b1110 } }) with bus := 0x7F, atn := false }) (fun t =>
      (((t.chip 1).orb, t.bus, t.atn), (t.chip 1).cl, (t.chip 0).ifr, (t.chip 1).ifr))
      = some ((0x7F, 0x7F, false), 0b1110, 1, 1) := by
  decide +kernel
/-- VP11 (c). -/
theorem test_wr_pa_rmw :
    see (exec (.wrPa 1 true 0xAA 0) State.reset) (fun t => (t.chip 1).ora) = some 0xAA := by decide +kernel
/-- 43_peripheral_chip.md R202: VP1's function on port A. -/
theorem test_wr_ddra :
    see (exec (.wrDdra 1 false 0x0F 0) (withChip (fun c => { c with ora := 0x05 }))) (fun t =>
      ((t.chip 1).ddra, (t.chip 1).portAOut)) = some (0x0F, 0xF5) := by decide +kernel
/-- VP5. -/
theorem test_wr_timer_1 :
    [Instr.wrT1cl 1 false 1 0, .wrT1ll 1 false 2 0, .wrT1lh 1 false 1 0, .wrT1ch 1 false 0 0].map (fun i =>
      see (exec i timerChip) (fun t => ((t.chip 1).t1.latch, (t.chip 1).t1.count, (t.chip 1).t1.run)))
      = [some (0xAB01, 0x1234, false), some (0xAB02, 0x1234, false), some (0x01CD, 0x1234, false),
         some (0x00CD, 0x00CD, true)] := by decide +kernel
theorem test_wr_timer_2 :
    [Instr.wrT2cl 1 false 1 0, .wrT2ll 1 false 2 0, .wrT2lh 1 false 1 0, .wrT2ch 1 false 0 0].map (fun i =>
      see (exec i timerChip) (fun t => ((t.chip 1).t2.latch, (t.chip 1).t2.count, (t.chip 1).t2.run)))
      = [some (0x9A01, 0x5678, false), some (0x9A02, 0x5678, false), some (0x01EF, 0x5678, false),
         some (0x00EF, 0x00EF, true)] := by decide +kernel
/-- VP9. -/
theorem test_wr_sr :
    see (exec (.wrSr 1 false 0 0) (withChip (fun c => { c with sr := 5, srcnt := 3 }))) (fun t =>
      ((t.chip 1).sr, (t.chip 1).srcnt)) = some (0, 0) := by decide +kernel
/-- VP8. -/
theorem test_wr_cr : see (exec (.wrCr 1 false 0xFF 0) State.reset) (fun t => (t.chip 1).cr) = some 0xF := by decide +kernel
/-- VP11 (a). -/
theorem test_wr_ifr_rmw :
    see (exec (.wrIfr 1 true 0 0) ((withChip (fun c => { c with ifr := 0b01100 })).updPart 1 (fun x =>
      { x with rmwVal := 0x0C }))) (fun t => (t.chip 1).ifr) = some 0 := by decide +kernel
/-- VP7. -/
theorem test_wr_ifr :
    see (exec (.wrIfr 1 false 4 0) (withChip (fun c => { c with ifr := 0b10100 }))) (fun t => (t.chip 1).ifr)
      = some 0b10000 := by decide +kernel
/-- VP12. -/
theorem test_wr_ier :
    see (exec (.wrIer 1 false 4 0) (withChip (fun c => { c with ifr := 0b00100 }))) (fun t => ((t.chip 1).ier, (t.chip 1).irq))
      = some (0b00100, true) := by decide +kernel

/-! Lines and pins. -/

/-- VP10. -/
theorem test_signal :
    [Instr.signal 1 .cl1 .rise, .signal 1 .cl2 .fall, .signal 1 .cl3 .rise, .signal 1 .cl4 .fall].map (fun i =>
      see (exec i State.reset) (fun t => ((t.chip 1).cl, (t.chip 1).ifr)))
      = [some (0xF, 1), some (0b1101, 2), some (0xF, 0), some (0b0111, 0)] := by decide +kernel
/-- 43_peripheral_chip.md R240: the eighth bit. -/
theorem test_signal_shifts :
    see (exec (.signal 1 .cl3 .rise) (withChip (fun c => { c with cr := 4, sr := 0x52, srcnt := 7 }))) (fun t =>
      ((t.chip 1).sr, (t.chip 1).srcnt, (t.chip 1).ifr)) = some (0xA5, 0, 0b10000) := by decide +kernel
/-- VP13. -/
theorem test_pina : see (exec (.pina 1 0x3C) State.reset) (fun t => (t.part 1).paIn) = some 0x3C := by decide +kernel

/-! Witnesses: a state and operands that meet the hypotheses of each statement, at the boundaries of its clauses. -/

theorem test_witness_EncodeOfDecodeIsTheHeader : ∃ i, decode ⟨0x4110017F, 5, 0, []⟩ = .ok i := ⟨_, rfl⟩

/-- An empty port; a legal and an illegal word before another, in a state that is fatal and in one that is not. -/
theorem test_witness_StepRunsTheDecodedCommand :
    State.reset.params.legal = true ∧ State.reset.port = [] ∧
    (State.reset.present ⟨0x21000000, 0, 5, []⟩).port = [⟨0x21000000, 0, 5, []⟩] ∧
    decode ⟨0x21000000, 0, 5, []⟩ = .ok (.advance 5) ∧ decode ⟨0x01000001, 0, 0, []⟩ = .error (.reservedBits 0x01) ∧
    State.reset.err.getLsbD 0 = false ∧ { State.reset with err := 0x081 }.err.getLsbD 0 = true :=
  ⟨by decide +kernel, rfl, rfl, rfl, rfl, rfl, rfl⟩

theorem test_witness_StepRefusesIllegalParameters :
    ¬ ({ Params.reference with ndrives := 16 }.highWater + Params.reference.maxStep < 2 ^ 64 ∧
      { Params.reference with ndrives := 16 }.ndrives ≤ 15) ∧ ¬ (0 < { Params.reference with rebaseChunk := 0 }.rebaseChunk) ∧
    65535 < 2 ^ 16 := by decide +kernel

theorem test_witness_FatalStateIgnoresAllButReset :
    { State.reset with err := 0x081 }.err.getLsbD 0 = true ∧ Instr.advance 5 ≠ .mreset := by decide +kernel

theorem test_witness_OutOfRangeCommandsAreFatal :
    State.reset.err.getLsbD 0 = false ∧
    [Instr.catchup 0 0, .catchup 5 0, .rdPb 5 0, .csrrd 1 .err 0, .csrrd 0 .tabInt 4096, .csrrd 1 .tabInt 4097,
      .csrrd 1 .tabFrac 4097].map (fun i => i.inRange State.reset.params) = List.replicate 7 false := by decide +kernel

/-- A state with a command waiting that has something to do. -/
def waiting : State := (bench [idle 2] [idle 2]).present ⟨0x3000007F, 1, 0, []⟩

theorem test_waiting_steps : ∃ t, step waiting = .next t ∧ t.bus = 0x7F :=
  next_of_see (f := fun t => t.bus) (by decide +kernel)

theorem test_witness_StepKeepsTheBusInvariant : waiting.BusCoherent ∧ ∃ t, step waiting = .next t :=
  ⟨by unfold State.BusCoherent; decide +kernel, test_waiting_steps.imp fun _ h => h.1⟩

theorem test_witness_StepKeepsClockWidths : waiting.ClocksFit ∧ ∃ t, step waiting = .next t :=
  ⟨by unfold State.ClocksFit; decide +kernel, test_waiting_steps.imp fun _ h => h.1⟩

theorem test_witness_StepKeepsErrorBitsLegal : waiting.ErrLegal ∧ ∃ t, step waiting = .next t :=
  ⟨by unfold State.ErrLegal; decide +kernel, test_waiting_steps.imp fun _ h => h.1⟩

theorem test_witness_StepKeepsSyncFactorsCurrent : waiting.FactorsCurrent ∧ ∃ t, step waiting = .next t :=
  ⟨by unfold State.FactorsCurrent; decide +kernel, test_waiting_steps.imp fun _ h => h.1⟩

theorem test_witness_StepKeepsTheParameters : ∃ t, step waiting = .next t := test_waiting_steps.imp fun _ h => h.1

theorem test_witness_OnlyValueReturningCommandsWriteRes :
    (Instr.advance 5).writesRes = false ∧ exec (.advance 5) State.reset = .next (after (.advance 5) State.reset) :=
  ⟨rfl, exec_after (by decide +kernel)⟩

theorem test_witness_OnlyRecoveryEndsAJam :
    exec (.dreset 1 5000) jammed = .next (after (.dreset 1 5000) jammed) ∧ (jammed.drive 1).jam = true ∧
      ((after (.dreset 1 5000) jammed).drive 1).jam = false :=
  ⟨exec_after (by decide +kernel), by decide +kernel, by decide +kernel⟩

theorem test_witness_SyncFactorIsTheFlooredRatio :
    ((985248 : BitVec 32) ≠ 0 ∧ 66517 * 985248 ≤ 1000000 * 2 ^ false.toNat * 65536 ∧
      1000000 * 2 ^ false.toNat * 65536 < (66517 + 1) * 985248) ∧
    ((1 : BitVec 32) ≠ 0 ∧ 2 ^ 32 * 1 ≤ 65536 * 2 ^ false.toNat * 65536 ∧
      65536 * 2 ^ false.toNat * 65536 < (2 ^ 32 + 1) * 1) := by decide +kernel

/-- VC3. -/
theorem test_witness_SetfdrvReplacesEveryFactor :
    (bench [] []).err.getLsbD 0 = false ∧
    (∀ x, (bench [] []).params.isDrive x = true →
      exactRatio ((bench [] []).drive x).fLocal ((bench [] []).drive x).turbo 16 < 2 ^ 32) ∧
    ∃ x, (bench [] []).params.isDrive x = true ∧
      2 ^ 32 ≤ exactRatio ((bench [] []).drive x).fLocal ((bench [] []).drive x).turbo 15 :=
  ⟨by decide +kernel, by decide +kernel, 1, by decide +kernel⟩

/-- Slot 4 of a block with `f_drive = 1` and `f_local = 40000`, with and without the turbo capability. -/
theorem test_witness_SetflocAndSetturboReplaceTheFactor :
    let s := { State.reset with fDrive := 1 }.updDrive 4 (fun r => { r with fLocal := 40000 })
    s.err.getLsbD 0 = false ∧ s.params.isDrive 4 = true ∧ exactRatio 65535 (s.drive 4).turbo s.fDrive < 2 ^ 32 ∧
    2 ^ 32 ≤ exactRatio 65536 (s.drive 4).turbo s.fDrive ∧ s.params.turboCap.read 4 = true ∧
    exactRatio (s.drive 4).fLocal false s.fDrive < 2 ^ 32 ∧ 2 ^ 32 ≤ exactRatio (s.drive 4).fLocal true s.fDrive ∧
    { Params.reference with turboCap := .fill false }.turboCap.read 4 = false := by decide +kernel

theorem test_witness_EnableAttachesAndWakes :
    State.reset.err.getLsbD 0 = false ∧ State.reset.params.isDrive 1 = true ∧ State.reset.params.isDrive 4 = true ∧
    (State.reset.drive 4).en = false ∧ (bench [] []).err.getLsbD 0 = false ∧ (bench [] []).params.isDrive 1 = true ∧
    ((bench [] []).drive 1).en = true := by decide +kernel

theorem test_witness_DisableDetaches :
    (bench [] []).err.getLsbD 0 = false ∧ (bench [] []).params.isDrive 1 = true ∧ ((bench [] []).drive 1).en = true ∧
    (bench [] []).params.isDrive 4 = true ∧ ((bench [] []).drive 4).en = false := by decide +kernel

theorem test_witness_ConversionLoopHasTheClosedForm :
    1 ≤ narrow.params.horizon ∧ narrow.params.clockFits 0xFFFFFFFF = true ∧ 10000 ≤ 10000 := by decide +kernel

/-- A request one tick ahead, one as far ahead as a signed difference reaches, and a stale one. -/
theorem test_witness_CatchupCreditsTheClosedForm :
    let s := bench [] []
    s.err.getLsbD 0 = false ∧ s.params.isDrive 1 = true ∧ (s.drive 1).en = true ∧ (s.drive 1).jam = false ∧
    0 < s.params.sdiff (s.params.wrap 1) (s.drive 1).lastSync ∧
    0 < s.params.sdiff (s.params.wrap 0x7FFFFFFFFFFFFFFF) (s.drive 1).lastSync ∧
    s.params.sdiff (s.params.wrap 0) (s.drive 1).lastSync ≤ 0 ∧ (s.drive 3).en = false ∧ (jammed.drive 1).jam = true := by
  decide +kernel

/-- Four ticks of credit asked for in two parts. -/
theorem test_witness_SplittingACatchupDoesNotShow :
    let s := bench [idle 2, idle 2, idle 1, idle 1] []
    let delta := s.params.sdiff (s.params.wrap 2) (s.drive 1).lastSync + s.params.sdiff (s.params.wrap 4) (s.params.wrap 2)
    let room := s.params.sdiff (s.drive 1).stopClk (s.drive 1).localClk
        + ((((s.drive 1).frac.toNat + delta.toNat * (s.drive 1).sf.toNat) / 65536 : Nat) : Int)
    (s.err.getLsbD 0 = false ∧ s.params.isDrive 1 = true ∧ (s.drive 1).en = true ∧ (s.drive 1).jam = false ∧
      0 < s.params.sdiff (s.params.wrap 2) (s.drive 1).lastSync ∧ 0 < s.params.sdiff (s.params.wrap 4) (s.params.wrap 2) ∧
      delta < 2 ^ (s.params.clkW.bits - 1)) ∧
    (s.params.legal = true ∧ s.params.kMax ≤ 2 ^ (s.params.clkW.bits - 1) ∧ room ≤ (s.agent 1).script.length ∧
      room < 2 ^ (s.params.clkW.bits - 1)) ∧
    (∀ x ∈ (s.agent 1).script, ∃ k, x = .instr k []) ∧
    exec (.catchup 1 2) s = .next (after (.catchup 1 2) s) ∧ ((after (.catchup 1 2) s).drive 1).jam = false ∧
    exec (.catchup 1 4) (after (.catchup 1 2) s) = .next (after (.catchup 1 4) (after (.catchup 1 2) s)) ∧
    exec (.catchup 1 4) s = .next (after (.catchup 1 4) s) :=
  ⟨by decide +kernel, by decide +kernel,
    fun x hx => by
      have h : x ∈ [idle 2, idle 2, idle 1, idle 1] := hx
      simp only [List.mem_cons, List.not_mem_nil, or_false] at h
      rcases h with rfl | rfl | rfl | rfl <;> exact ⟨_, rfl⟩,
    exec_after (by decide +kernel), by decide +kernel, exec_after (by decide +kernel), exec_after (by decide +kernel)⟩

/-- VC11; and a local clock that is already past the stop value. -/
theorem test_witness_CatchupOvershootsByLessThanAnInstruction :
    let s := bench [idle 7, idle 7] []
    let u := s.updDrive 1 (fun r => { r with localClk := 20 })
    (s.params.legal = true ∧ s.params.kMax ≤ 2 ^ (s.params.clkW.bits - 1) ∧ s.err.getLsbD 0 = false ∧
      s.params.isDrive 1 = true ∧ (s.drive 1).en = true ∧ (s.drive 1).jam = false ∧
      0 < s.params.sdiff (s.params.wrap 10) (s.drive 1).lastSync) ∧
    0 < s.params.sdiff ((after (.catchup 1 10) s).drive 1).stopClk (s.drive 1).localClk ∧
    (u.drive 1).en = true ∧ (u.drive 1).jam = false ∧ 0 < u.params.sdiff (u.params.wrap 10) (u.drive 1).lastSync ∧
    u.params.sdiff ((after (.catchup 1 10) u).drive 1).stopClk (u.drive 1).localClk ≤ 0 := by decide +kernel

/-- An instruction that ends on the stop value and reads, writes and idles. -/
def busy : State :=
  bench [.instr 7 [.rd .t1cl, .act (.wr .ddrb false 0x80), .act (.signal .cl2 .fall), .act .idletrap], idle 1] [idle 7]

theorem test_witness_CatchupRunsOneWholeInstruction :
    (busy.params.legal = true ∧ busy.err.getLsbD 0 = false ∧ busy.params.isDrive 1 = true ∧ (busy.drive 1).en = true ∧
      (busy.drive 1).jam = false ∧ 0 < busy.params.sdiff (busy.params.wrap 7) (busy.drive 1).lastSync ∧
      7 * 65536 = (busy.drive 1).stopClk.toNat * 65536 + (busy.drive 1).frac.toNat
        + (busy.params.sdiff (busy.params.wrap 7) (busy.drive 1).lastSync).toNat * (busy.drive 1).sf.toNat ∧
      7 = busy.params.wrap (BitVec.ofNat 64 (7 * 65536 / 65536)) ∧ 1 ≤ 7 ∧ 7 ≤ busy.params.kMax ∧
      7 ≤ 2 ^ (busy.params.clkW.bits - 1) ∧ 0 < busy.params.sdiff 7 (busy.drive 1).localClk ∧
      busy.params.sdiff 7 (busy.drive 1).localClk ≤ 7) ∧
    ∃ body, (busy.cpuStep 1).1 = .instr 7 body ∧ (bench [idle 7] []).cpuStep 1 = (.instr 7 .done, ((bench [idle 7] []).cpuStep 1).2) :=
  ⟨by decide +kernel, _, rfl, rfl⟩

/-- 40_clock_converter.md R142: the ticks come before the accesses, so the read sees timer 1 as it stands at the end, and the
other drive is caught up to the target by the store. -/
theorem test_catchup_performs_the_body :
    see (exec (.catchup 1 7) (busy.updChip 1 (fun c => { c with t1 := { count := 9, latch := 0, run := true } }))) (fun t =>
      ((t.agent 1).history, (t.drive 1).localClk, (t.drive 2).lastSync, t.bus, (t.chip 1).ifr))
      = some ([.gotByte 2, .asked false], 7, 7, 0x7F, 0b00011) := by decide +kernel

theorem test_witness_JammedStepHaltsItsSlot :
    let s := bench [.jam 0x1234] []
    s.err.getLsbD 0 = false ∧ s.params.isDrive 1 = true ∧ (s.drive 1).en = true ∧ (s.drive 1).jam = false ∧
    0 < s.params.sdiff (s.params.wrap 1) (s.drive 1).lastSync ∧
    65536 = (s.drive 1).stopClk.toNat * 65536 + (s.drive 1).frac.toNat
      + (s.params.sdiff (s.params.wrap 1) (s.drive 1).lastSync).toNat * (s.drive 1).sf.toNat ∧
    1 = s.params.wrap (BitVec.ofNat 64 (65536 / 65536)) ∧ (s.agent 1).script = [.jam 0x1234] ∧
    0 < s.params.sdiff 1 (s.drive 1).localClk := by decide +kernel

/-- The clauses about a drive that is behind, and about the case in which nobody is. -/
def BehindOrNot (s : State) : Prop :=
  s.err.getLsbD 0 = false ∧ s.nobodyBehind 0 (s.params.wrap 0) ∧ 1 ≤ s.params.kMax ∧
  s.params.kMax ≤ 2 ^ (s.params.clkW.bits - 1) ∧ s.params.isDrive 2 = true ∧ (s.drive 2).en = true ∧
  (s.drive 2).jam = false ∧ 0 < s.params.sdiff (s.params.wrap 1) (s.drive 2).lastSync

theorem test_witness_SyncallBringsEveryDriveToTheTarget : BehindOrNot (bench [] []) := by
  unfold BehindOrNot State.nobodyBehind; decide +kernel

theorem test_witness_NestingDepthIsAtMostTheDrives :
    State.reset.params.isDrive 4 = true ∧ State.reset.params.ndrives ≤ 4 := by decide +kernel

/-- Each case of the jump: the stop value, timer 1, timer 2; and the slots that do not run. -/
theorem test_witness_IdletrapJumpsToTheNextEvent :
    let s := (bench [] []).updDrive 1 (fun r => { r with stopClk := 500 })
    let u := s.updChip 1 (fun c => { c with t1 := { c.t1 with count := 99, run := true } })
    let v := s.updChip 1 (fun c => { c with t2 := { c.t2 with count := 0, run := true } })
    s.err.getLsbD 0 = false ∧ s.params.isDrive 1 = true ∧ (s.drive 1).en = true ∧ (s.drive 1).jam = false ∧
    500 = s.params.sdiff (s.drive 1).stopClk (s.drive 1).localClk ∧ (s.chip 1).t1.run = false ∧ (s.chip 1).t2.run = false ∧
    100 ≤ u.params.sdiff (u.drive 1).stopClk (u.drive 1).localClk ∧ (u.chip 1).t1.run = true ∧
    100 = (u.chip 1).t1.count.toNat + 1 ∧ (u.chip 1).t2.run = false ∧ (v.chip 1).t2.run = true ∧
    1 = (v.chip 1).t2.count.toNat + 1 ∧ (v.chip 1).t1.run = false ∧ (s.drive 3).en = false ∧ (jammed.drive 1).jam = true ∧
    s.params.sdiff (s.drive 2).stopClk (s.drive 2).localClk ≤ 0 := by decide +kernel

theorem test_witness_TimersKeepTheirClosedForm :
    let c := { Chip.reset with t1 := { count := 1, latch := 4, run := true } }
    c.t1.run = true ∧ c.ticksToExpiry = some 2 ∧ c.ifr &&& 0b01100 = 0 ∧ Chip.reset.ticksToExpiry = none := by decide +kernel

theorem test_witness_GregRegistersForGood :
    (State.reset.err.getLsbD 0 = false ∧ (1 ≤ (1 : Slot).toNat ∧ (1 : Slot).toNat ≤ State.reset.params.ndrives) ∧
      (1 ≤ (4 : Slot).toNat ∧ (4 : Slot).toNat ≤ State.reset.params.ndrives) ∧
      ¬ (1 ≤ (0 : Slot).toNat ∧ (0 : Slot).toNat ≤ State.reset.params.ndrives) ∧
      ¬ (1 ≤ (5 : Slot).toNat ∧ (5 : Slot).toNat ≤ State.reset.params.ndrives)) ∧
    Instr.advance 5 ≠ .mreset ∧ ((State.reset.updDrive 1 (fun r => { r with sub := true })).drive 1).sub = true ∧
    exec (.advance 5) (State.reset.updDrive 1 (fun r => { r with sub := true }))
      = .next (after (.advance 5) (State.reset.updDrive 1 (fun r => { r with sub := true }))) :=
  ⟨by decide +kernel, by decide, by decide +kernel, exec_after (by decide +kernel)⟩

theorem test_witness_AdvanceMovesTheDrivingClock :
    narrow.err.getLsbD 0 = false ∧ narrow.params.clockFits narrow.authClk = true := by decide +kernel

/-- At the mark and one above it. -/
theorem test_witness_MayberebShiftsRegisteredClocks :
    narrow.params.legal = true ∧ narrow.err.getLsbD 0 = false ∧
    (narrow.params.wrap 0xFEFFFFFF).toNat ≤ narrow.params.highWater ∧
    narrow.params.highWater < (narrow.params.wrap 0xFF000000).toNat := by decide +kernel

theorem test_witness_RebaseKeepsClockDifferences :
    let sub := fun (r : Drive) => { r with sub := true }
    let s := (narrow.updDrive 1 sub).updDrive 4 sub
    exec (.maybereb 0xFF000000) s = .next (after (.maybereb 0xFF000000) s) ∧
    s.params.isDrive 1 = true ∧ s.params.isDrive 4 = true ∧ (s.drive 1).sub = true ∧ (s.drive 4).sub = true :=
  ⟨exec_after (by decide +kernel), by decide +kernel⟩

theorem test_witness_ResolveDeliversOneEdge : State.reset.err.getLsbD 0 = false ∧ State.reset.BusCoherent := by
  unfold State.BusCoherent; decide +kernel

theorem test_witness_OutchgCatchesUpThenResolves :
    BehindOrNot (bench [] []) ∧ (bench [] []).params.isPart 0 = true ∧ (bench [] []).params.isPart 4 = true ∧
    ((bench [] []).part 4).mode = .pullOnly := by unfold BehindOrNot State.nobodyBehind; decide +kernel

theorem test_witness_OutchgTwiceIsOutchgOnce :
    exec (.outchg 0 false 0x7F 2) (bench [idle 2] [idle 2]) = .next (after (.outchg 0 false 0x7F 2) (bench [idle 2] [idle 2])) :=
  exec_after (by decide +kernel)

/-- The hypotheses of the statements about one command of a participant slot: SETMODE, FASTNEG, the chip's reads and stores,
the snapshot commands. -/
theorem test_witness_SetmodeAndFastnegWriteTheirFlags :
    State.reset.err.getLsbD 0 = false ∧ State.reset.params.isPart 0 = true ∧ State.reset.params.isPart 4 = true := by
  decide +kernel

theorem test_witness_FastDeliversTheByteOrRefuses :
    negotiated.err.getLsbD 0 = false ∧ negotiated.params.isDrive 1 = true ∧ (negotiated.part 0).fastneg = true ∧
    (negotiated.part 1).fastneg = true ∧ (negotiated.drive 1).en = true ∧ (negotiated.part 2).fastneg = false ∧
    (negotiated.drive 3).en = false ∧ (Direction.hostToDrive = .driveToHost → (1 : Slot) = 0) ∧
    (Direction.driveToHost = .hostToDrive → (0 : Slot) = 1) := by decide +kernel

theorem test_witness_FastEqualsTheBitSerialPath :
    negotiated.params.isPart 1 = true ∧ negotiated.params.isDrive 1 = true ∧ negotiated.err.getLsbD 0 = false ∧
    (negotiated.part 0).fastneg = true ∧ (negotiated.part 1).fastneg = true ∧ (negotiated.drive 1).en = true ∧
    exec (.fast 1 .driveToHost 0x3C) negotiated = .next (after (.fast 1 .driveToHost 0x3C) negotiated) :=
  ⟨by decide +kernel, by decide +kernel, by decide +kernel, by decide +kernel, by decide +kernel, by decide +kernel,
    exec_after (by decide +kernel)⟩

theorem test_witness_PlainReadsReturnTheirRegister :
    timerChip.err.getLsbD 0 = false ∧ timerChip.params.isPart 0 = true ∧ timerChip.params.isPart 4 = true := by decide +kernel

/-- The interrupt line high and low. -/
theorem test_witness_RdIfrClearsTheEdgeFlags :
    let s := withChip (fun c => { c with ifr := 0b00101, ier := 0b00001 })
    s.err.getLsbD 0 = false ∧ s.params.isPart 1 = true ∧
    ((1 : BitVec 1) = 1 ↔ ∃ k, k < 5 ∧ (s.chip 1).ifr.getLsbD k = true ∧ (s.chip 1).ier.getLsbD k = true) ∧
    ((0 : BitVec 1) = 1 ↔ ∃ k, k < 5 ∧ (s.chip 2).ifr.getLsbD k = true ∧ (s.chip 2).ier.getLsbD k = true) := by decide +kernel

theorem test_witness_RdPbSynchronisesTheHostOnly :
    BehindOrNot (bench [] []) ∧ (bench [] []).params.isDrive 1 = true ∧ (bench [] []).params.isDrive 4 = true := by
  unfold BehindOrNot State.nobodyBehind; decide +kernel

theorem test_witness_PlainStoresWriteTheirRegister :
    timerChip.err.getLsbD 0 = false ∧ timerChip.params.isPart 0 = true ∧ timerChip.params.isPart 4 = true := by decide +kernel

theorem test_witness_TimerStoresWriteTheLatch :
    timerChip.err.getLsbD 0 = false ∧ timerChip.params.isPart 0 = true ∧ timerChip.params.isPart 4 = true := by decide +kernel

theorem test_witness_WrIfrClearsSelectedFlags :
    timerChip.err.getLsbD 0 = false ∧ timerChip.params.isPart 0 = true ∧ timerChip.params.isPart 4 = true := by decide +kernel

theorem test_witness_PortBStoresNotifyTheArbiter :
    (bench [] []).err.getLsbD 0 = false ∧ (bench [] []).params.isPart 0 = true ∧ (bench [] []).params.isPart 4 = true := by
  decide +kernel

/-- The first slot past the last, the last and the first; shifting in with and without SREN. -/
theorem test_witness_SignalLatchesTheLine :
    State.reset.err.getLsbD 0 = false ∧ State.reset.params.ndrives < (5 : Slot).toNat ∧
    (4 : Slot).toNat ≤ State.reset.params.ndrives ∧ (0 : Slot).toNat ≤ State.reset.params.ndrives ∧
    (State.reset.chip 0).cr.getLsbD 2 = false ∧ (negotiated.chip 1).cr.getLsbD 2 = true ∧ negotiated.err.getLsbD 0 = false := by
  decide +kernel

theorem test_witness_PinaSetsThePortAInput :
    State.reset.err.getLsbD 0 = false ∧ (4 : Slot).toNat ≤ State.reset.params.ndrives ∧
    State.reset.params.ndrives < (5 : Slot).toNat := by decide +kernel

theorem test_witness_RecoveryCommandsReleaseTheSlot :
    jammed.err.getLsbD 0 = false ∧ jammed.params.isDrive 1 = true ∧ (jammed.drive 1).jam = true ∧
    jammed.params.isDrive 4 = true ∧ (jammed.drive 4).jam = false := by decide +kernel

theorem test_witness_ClrerrClearsTheStickyBits :
    { State.reset with err := 0x10A }.err.getLsbD 0 = false ∧ { State.reset with err := 0x081 }.err.getLsbD 0 = true := by
  decide +kernel

/-- The last table entry. -/
theorem test_witness_CsrrdReadsEverySelector :
    jammed.err.getLsbD 0 = false ∧ jammed.params.isPart 0 = true ∧ jammed.params.isPart 4 = true ∧
    jammed.params.isDrive 1 = true ∧ jammed.params.isDrive 4 = true ∧ (4096 : BitVec 32).toNat ≤ jammed.params.horizon := by
  decide +kernel

theorem test_witness_SnapsaveLaysOutTheBlocks :
    BehindOrNot (bench [] []) ∧ (bench [] []).params.isPart 0 = true ∧ (bench [] []).params.isPart 4 = true := by
  unfold BehindOrNot State.nobodyBehind; decide +kernel

/-- A block of a good shape and a newer version, and one a byte too short, of either kind. -/
theorem test_witness_SnaploadRefusesBadBlocks :
    let bs := chipBlock 2 1
    let ps : List Byte := [0x50, 1, 1] ++ List.replicate 37 0
    let cb := State.reset.params.clkW.bytes
    let o := 3 + cb + State.reset.params.cpuRegsLen + State.reset.params.lastopLen
    (State.reset.err.getLsbD 0 = false ∧ State.reset.params.isPart 0 = true ∧ State.reset.params.isPart 4 = true) ∧
    (bs.length = 24 ∧ byteAt 0 bs = 0x43 ∧ byteAt 7 bs &&& 0xE0 = 0 ∧ byteAt 8 bs &&& 0xE0 = 0 ∧ byteAt 18 bs &&& 0xF8 = 0 ∧
      byteAt 19 bs &&& 0xF0 = 0 ∧ byteAt 20 bs &&& 0xFC = 0 ∧ byteAt 21 bs &&& 0xF0 = 0) ∧
    ((byteAt 1 bs).toNat = 1 ∧ 0 < (byteAt 2 bs).toNat) ∧ (bs.take 23).length ≠ 24 ∧
    (ps.length = 8 + 3 * cb + State.reset.params.cpuRegsLen + State.reset.params.lastopLen + State.reset.params.intstatLen
        + State.reset.params.ramSize.read 0 ∧ byteAt 0 ps = 0x50 ∧ byteAt (o + 2 + 2 * cb) ps &&& 0xFE = 0 ∧
      ∀ k, k < 5 + 2 * cb → byteAt (o + k) ps = 0) ∧
    ((byteAt 1 ps).toNat = 1 ∧ 0 < (byteAt 2 ps).toNat) ∧ byteAt (o + 2 + 2 * cb) (ps.set (o + 2 + 2 * cb) 2) &&& 0xFE ≠ 0 := by
  decide +kernel

theorem test_witness_SnaploadAppliesAChipBlock :
    State.reset.err.getLsbD 0 = false ∧ State.reset.params.isPart 0 = true ∧ State.reset.params.isPart 4 = true ∧
    ((0 : Byte) = 0 ∨ ((0 : Byte) = 1 ∧ (9 : Byte) = 0)) ∧ ((1 : Byte) = 0 ∨ ((1 : Byte) = 1 ∧ (0 : Byte) = 0)) := by
  decide +kernel

/-- Slot 1 and the host; opaque fields of the reference lengths. -/
theorem test_witness_ProcessorContextRoundTrips :
    let s := bench [idle 2] [idle 2]
    let f : CpuFields := { cpuRegs := [1, 2, 3, 4, 5, 6, 7], lastOpcode := [8], intStatus := [], ram := [] }
    s.ClocksFit ∧ (s.err.getLsbD 0 = false ∧ s.params.isPart 0 = true ∧ s.params.isPart 1 = true) ∧
    exec (.snapsave 1 .pctx 2) s = .next (after (.snapsave 1 .pctx 2) s) ∧
    exec (.snapsave 0 .pctx 2) s = .next (after (.snapsave 0 .pctx 2) s) ∧
    (State.reset.params = s.params ∧ State.reset.err.getLsbD 0 = false) ∧
    (f.cpuRegs.length = s.params.cpuRegsLen ∧ f.lastOpcode.length = s.params.lastopLen ∧
      f.intStatus.length = s.params.intstatLen ∧ f.ram.length = s.params.ramSize.read 0 ∧
      f.ram.length = s.params.ramSize.read 1 ∧ s.params.clockFits 0xFFFFFFFFFFFFFFFF = true ∧
      ((0 : Byte) = 0 ∨ ((0 : Byte) = 1 ∧ (9 : Byte) = 0)) ∧ ((1 : Byte) = 0 ∨ ((1 : Byte) = 1 ∧ (0 : Byte) = 0))) :=
  ⟨by unfold State.ClocksFit; decide +kernel, by decide +kernel, exec_after (by decide +kernel), exec_after (by decide +kernel),
    by decide +kernel, by decide +kernel⟩

theorem test_witness_ChipStateRoundTrips :
    let s := bench [idle 2] [idle 2]
    s.err.getLsbD 0 = false ∧ s.params.isPart 1 = true ∧ exec (.snapsave 1 .chip 2) s = .next (after (.snapsave 1 .chip 2) s) ∧
    (State.reset.params = s.params ∧ State.reset.err.getLsbD 0 = false) :=
  ⟨by decide +kernel, by decide +kernel, exec_after (by decide +kernel), by decide +kernel⟩

end Sys2Proof.Tests
end

/-! What every step keeps (spec/00_scope.md R6, R7, R10; spec/20_memory.md R85): the parameters, the commands still waiting, and
the widths of the clock registers. One relation between the states before and after says it; it is reflexive and transitive,
each state operation has one rule for it, and each command is put together from these rules. -/

namespace Sys2Proof

@[simp] theorem Params.zero_fits (P : Params) : P.clockFits 0 = true := by simp [Params.clockFits]

/-- A byte string of `n` bytes spells a number below `256 ^ n` (20_memory.md R76). -/
theorem leNat_lt (bs : List Byte) : leNat bs < 256 ^ bs.length := by
  induction bs with
  | nil => simp [leNat]
  | cons b bs ih =>
    have hb := b.isLt
    rw [leNat, List.length_cons, Nat.pow_succ]
    omega

/-- A clock field of a snapshot block has no more than CLK_W bits (20_memory.md R80). -/
theorem Params.clockField_fits (P : Params) (off : Nat) (bs : List Byte) :
    P.clockFits (BitVec.ofNat 64 (leNat (bytesAt off P.clkW.bytes bs))) = true := by
  have hlen : (bytesAt off P.clkW.bytes bs).length ≤ P.clkW.bytes := List.length_take_le _ _
  have hbits : 256 ^ P.clkW.bytes = 2 ^ P.clkW.bits := by cases P.clkW <;> rfl
  have hlt : leNat (bytesAt off P.clkW.bytes bs) < 2 ^ P.clkW.bits := by
    calc leNat (bytesAt off P.clkW.bytes bs)
        < 256 ^ (bytesAt off P.clkW.bytes bs).length := leNat_lt _
      _ ≤ 256 ^ P.clkW.bytes := Nat.pow_le_pow_right (by decide) hlen
      _ = 2 ^ P.clkW.bits := hbits
  rw [Params.clockFits, decide_eq_true_eq, BitVec.toNat_ofNat]
  exact (Nat.mod_le _ _).trans_lt hlt

/-- HORIZON below 2^16 meets the product constraint at both clock widths (00_scope.md R6, R7). -/
theorem horizon_product_lt (w : ClockWidth) {h : Nat} (hh : h < 2 ^ 16) : h * (2 ^ 32 - 1) < 2 ^ (w.bits + 16) := by
  cases w <;> simp only [ClockWidth.bits] <;> omega

/-- A legal parameter set meets the constraints of 00_scope.md R7, and R6 bounds the number of drives. -/
theorem Params.constraints_of_legal {P : Params} (h : P.legal = true) :
    P.highWater + P.maxStep < 2 ^ P.clkW.bits ∧ 0 < P.rebaseChunk ∧ P.rebaseChunk ≤ P.highWater ∧
      P.horizon * (2 ^ 32 - 1) < 2 ^ (P.clkW.bits + 16) ∧ P.ndrives ≤ 15 := by
  simp only [Params.legal, Bool.and_eq_true, decide_eq_true_eq] at h
  obtain ⟨⟨⟨⟨⟨⟨⟨⟨_, hdrives⟩, _⟩, _⟩, _⟩, hstep⟩, hpos⟩, hchunk⟩, hprod⟩ := h
  exact ⟨hstep, hpos, hchunk, hprod, hdrives⟩

end Sys2Proof

namespace Sys2Proof.Machine

/-! Steps. -/

/-- An illegal parameter set is refused, whatever is presented (00_scope.md R7; log entry 15). -/
theorem step_illegal {s : State} (h : s.params.legal = false) : step s = .refused .illegalParameters := by
  simp [step, h]

/-- What a step of a legal block can do: nothing with an empty port; otherwise it takes the oldest command and performs it, or
raises IllegalCommand when its header spells none (20_memory.md R85, 30_encoding.md R105, R106). -/
theorem step_cases {s t : State} (h : step s = .next t) :
    s.params.legal = true ∧
      ((s.port = [] ∧ t = s) ∨
        ∃ c rest, s.port = c :: rest ∧
          ((∃ i, decode c = .ok i ∧ exec i { s with port := rest } = .next t) ∨
            (∃ e, decode c = .error e ∧ illegalHeader c { s with port := rest } = .next t))) := by
  cases hl : s.params.legal with
  | false => simp [step_illegal hl] at h
  | true =>
    refine ⟨rfl, ?_⟩
    cases hp : s.port with
    | nil =>
      simp only [step, hl, State.takeCommand, hp, if_true, Host.Outcome.next.injEq] at h
      exact .inl ⟨rfl, h.symm⟩
    | cons c rest =>
      simp only [step, hl, State.takeCommand, hp, if_true] at h
      refine .inr ⟨c, rest, rfl, ?_⟩
      cases hd : decode c with
      | ok i => exact .inl ⟨i, rfl, by simpa [hd] using h⟩
      | error e => exact .inr ⟨e, rfl, by simpa [hd] using h⟩

/-! The relation and its rules, one for each state operation. -/

/-- The three clock registers of a drive hold CLK_W bits (10_state.md R28). -/
def Drive.ClocksFit (P : Params) (d : Drive) : Prop :=
  P.clockFits d.localClk = true ∧ P.clockFits d.stopClk = true ∧ P.clockFits d.lastSync = true

theorem State.clocksFit_iff (st : State) : st.ClocksFit ↔
    st.params.clockFits st.authClk = true ∧ st.params.clockFits st.res = true ∧
      ∀ s, (st.drive s).ClocksFit st.params := Iff.rfl

theorem Drive.reset_clocksFit (P : Params) : Drive.reset.ClocksFit P :=
  ⟨P.zero_fits, P.zero_fits, P.zero_fits⟩

theorem Drive.rebase_clocksFit {P : Params} {d : Drive} (amt : Clock) (h : d.ClocksFit P) :
    (d.rebase P amt).ClocksFit P := by
  unfold Drive.rebase
  split
  · exact ⟨P.wrap_fits _, P.wrap_fits _, P.wrap_fits _⟩
  · exact h

/-- What every command keeps: the parameters, the commands still waiting, and the widths of the clock registers. -/
structure StepKept (s t : State) : Prop where
  params : t.params = s.params
  port : t.port = s.port
  clocks : s.ClocksFit → t.ClocksFit

theorem StepKept.refl (s : State) : StepKept s s := ⟨rfl, rfl, id⟩

theorem StepKept.trans {s t u : State} (h1 : StepKept s t) (h2 : StepKept t u) : StepKept s u :=
  ⟨h2.params.trans h1.params, h2.port.trans h1.port, h2.clocks ∘ h1.clocks⟩

/-- Register by register. -/
theorem StepKept.of_registers {s t : State} (params : t.params = s.params) (port : t.port = s.port)
    (authClk : s.params.clockFits s.authClk = true → s.params.clockFits t.authClk = true)
    (res : s.params.clockFits s.res = true → s.params.clockFits t.res = true)
    (drive : ∀ x, (s.drive x).ClocksFit s.params → (t.drive x).ClocksFit s.params) : StepKept s t where
  params := params
  port := port
  clocks h := by
    obtain ⟨ha, hr, hd⟩ := s.clocksFit_iff.mp h
    rw [State.clocksFit_iff, params]
    exact ⟨authClk ha, res hr, fun x => drive x (hd x)⟩

/-- An operation that touches no clock register. -/
theorem StepKept.of_same {s t : State} (params : t.params = s.params) (port : t.port = s.port)
    (authClk : t.authClk = s.authClk) (res : t.res = s.res) (drive : ∀ x, t.drive x = s.drive x) : StepKept s t :=
  .of_registers params port (by rw [authClk]; exact id) (by rw [res]; exact id) (fun x => by rw [drive]; exact id)

section Rules

variable {s t : State}

theorem StepKept.updPart {p : Slot} {f : Part → Part} (h : StepKept s t) : StepKept s (t.updPart p f) :=
  h.trans (.of_same rfl rfl rfl rfl fun _ => rfl)

theorem StepKept.updChip {p : Slot} {f : Chip → Chip} (h : StepKept s t) : StepKept s (t.updChip p f) := h.updPart

theorem StepKept.updAgent {q : Slot} {f : Agent → Agent} (h : StepKept s t) : StepKept s (t.updAgent q f) :=
  h.trans (.of_same rfl rfl rfl rfl fun _ => rfl)

theorem StepKept.tell {q : Slot} {e : CpuEvent} (h : StepKept s t) : StepKept s (t.tell q e) := h.updAgent

theorem StepKept.raise {c : Condition} {x : Slot} (h : StepKept s t) : StepKept s (t.raise c x) :=
  h.trans (.of_same rfl rfl rfl rfl fun _ => rfl)

theorem StepKept.resolve (h : StepKept s t) : StepKept s t.resolve :=
  h.trans (.of_same t.resolve_params t.resolve_port t.resolve_authClk t.resolve_res t.resolve_drive)

theorem StepKept.resolveSilently (h : StepKept s t) : StepKept s t.resolveSilently :=
  h.trans (.of_same rfl rfl rfl rfl fun _ => rfl)

theorem StepKept.setRes {v : Nat} (h : StepKept s t) : StepKept s (t.setRes v) :=
  h.trans (.of_registers rfl rfl id (fun _ => t.params.wrap_fits _) fun _ => id)

theorem StepKept.setAuthClk {c : Clock} (h : StepKept s t) (hc : s.params.clockFits c = true) :
    StepKept s { t with authClk := c } :=
  h.trans (.of_registers rfl rfl (fun _ => h.params ▸ hc) id fun _ => id)

theorem StepKept.updDrive {x : Slot} {f : Drive → Drive} (h : StepKept s t)
    (hf : ∀ d : Drive, d.ClocksFit s.params → (f d).ClocksFit s.params) : StepKept s (t.updDrive x f) := by
  refine h.trans (.of_registers rfl rfl id id fun y hy => ?_)
  rw [h.params] at hy ⊢
  rw [State.updDrive_drive]
  split
  · rename_i e
    exact hf _ (e ▸ hy)
  · exact hy

/-- An operation on each slot of a list in turn. -/
theorem StepKept.foldl {f : State → Slot → State} {l : List Slot} (h : StepKept s t)
    (hf : ∀ u x, StepKept s u → StepKept s (f u x)) : StepKept s (l.foldl f t) :=
  List.foldlRecOn l f (motive := StepKept s) h fun u hu x _ => hf u x hu

end Rules

/-- The power-on values fit (10_state.md R44). -/
theorem StepKept.machineReset (st : State) : StepKept st st.machineReset := by
  refine .foldl (.of_registers rfl rfl ?_ ?_ ?_) fun _ _ h => h.tell
  · exact fun _ => st.params.zero_fits
  · exact fun _ => st.params.zero_fits
  · intro x _
    simp only [State.drive, Bank.read_fill]
    exact Drive.reset_clocksFit st.params

theorem StepKept.driveReset {kind : ResetKind} {s : Slot} {now : Clock} {st : State}
    (hn : st.params.clockFits now = true) : StepKept st (driveReset kind s now st) := by
  refine .resolve (.tell (.updPart (.updPart (.updDrive (.refl st) ?_))))
  exact fun _ ⟨hl, _, _⟩ => ⟨hl, hl, hn⟩

/-! Catch-up and what nests in it. -/

/-- Each step of a catch-up to a value that fits keeps the relation to where it began (40_clock_converter.md R137 to R145). -/
theorem stepKept_inv {T : Clock} {s0 : State} (hT : s0.params.clockFits T = true) :
    CatchInv T (· ≠ 0) (fun _ => True) (StepKept s0) where
  nonhost _ h := h
  drives st _ d hd := Params.isDrive_ne_zero ((Params.mem_driveSlots _ d).mp hd)
  enter s st h _ _ _ _ :=
    ⟨trivial, h.updDrive fun _ ⟨hl, _, _⟩ => ⟨hl, by rw [← h.params]; exact st.params.wrap_fits _, hT⟩⟩
  ask _ _ _ _ h := h.updAgent
  jam _ _ _ _ h _ := .raise (.updDrive h fun _ => id)
  ticks _ st _ _ h := .updChip (.updDrive h fun _ ⟨_, hs, hy⟩ =>
    ⟨by rw [← h.params]; exact st.params.wrap_fits _, hs, hy⟩)
  read _ _ _ _ _ h := h.updPart
  hear _ _ _ _ h := h.tell
  store _ _ _ _ _ h := h.updChip
  signal _ _ _ _ _ h := h.updChip
  clamp _ _ _ h _ := h.raise
  notify _ _ _ _ h := h.updPart.resolve

section Nested

variable {T : Clock} {st : State}

theorem StepKept.catchUp {s : Slot} (hT : st.params.clockFits T = true) (hs : s ≠ 0) : StepKept st (catchUp s T st) :=
  (catchUp_keeps (stepKept_inv hT) s st hs (.refl st)).1

theorem StepKept.catchAll (hT : st.params.clockFits T = true) : StepKept st (catchAll Machine.catchUp T st) :=
  (catchAll_keeps (stepKept_inv hT) (catchUp_keeps (stepKept_inv hT)) st (.refl st)).1

theorem StepKept.outChg {p : Slot} {byte : Byte} {act : Bool} (hT : st.params.clockFits T = true) :
    StepKept st (outChg Machine.catchUp p byte act T st) :=
  (outChg_keeps (stepKept_inv hT) (catchUp_keeps (stepKept_inv hT)) trivial byte act st (.refl st)).1

theorem StepKept.chipStore {p : Slot} {r : ChipReg} {b : Byte} {rmw : Bool} (hT : st.params.clockFits T = true) :
    StepKept st (chipStore Machine.catchUp p r b rmw T st) :=
  (chipStore_keeps (stepKept_inv hT) (catchUp_keeps (stepKept_inv hT)) trivial r b rmw st (.refl st)).1

theorem StepKept.chipRead {p : Slot} {r : ChipReg} (hT : st.params.clockFits T = true) :
    StepKept st (chipRead Machine.catchUp p r T st).2 := by
  by_cases h : p = 0 ∧ r = .pb
  · obtain ⟨rfl, rfl⟩ := h
    rw [chipRead_host]
    dsimp only
    exact .updPart (.resolve (.catchAll hT))
  · rw [chipRead_plain (by tauto)]
    dsimp only
    exact .updPart (.refl st)

theorem StepKept.idleTrap {s : Slot} : StepKept st (idleTrap s st) :=
  (idleTrap_keeps (stepKept_inv st.params.zero_fits) trivial st (.refl st)).1

end Nested

/-! Commands. The clock operand of a command fits, for the port cuts it to CLK_W bits (30_encoding.md R100; log entry 2). -/

theorem State.clock_fits (st : State) (opa : Clock) : st.params.clockFits (st.clock opa) = true := st.params.wrap_fits _

section Commands

variable {st t : State} {s : Slot} {f : State → State}

theorem command_stepKept (h : command st f = .next t) (hf : StepKept st (f st)) : StepKept st t := by
  rcases command_cases h with ⟨_, rfl⟩ | ⟨_, rfl⟩
  · exact .refl _
  · exact hf

theorem driveCommand_stepKept (h : driveCommand st s f = .next t)
    (hf : st.params.isDrive s = true → StepKept st (f st)) : StepKept st t := by
  rcases driveCommand_cases h with ⟨_, rfl⟩ | ⟨_, _, rfl⟩ | ⟨_, hs, rfl⟩
  · exact .refl _
  · exact .raise (.refl _)
  · exact hf hs

theorem partCommand_stepKept (h : partCommand st s f = .next t) (hf : StepKept st (f st)) : StepKept st t := by
  rcases partCommand_cases h with ⟨_, rfl⟩ | ⟨_, _, rfl⟩ | ⟨_, _, rfl⟩
  · exact .refl _
  · exact .raise (.refl _)
  · exact hf

theorem readCommand_stepKept {r : ChipReg} {opa : Clock} (h : readCommand r s opa st = .next t) : StepKept st t :=
  partCommand_stepKept h (.setRes (.chipRead (st.clock_fits opa)))

theorem storeCommand_stepKept {r : ChipReg} {rmw : Bool} {imm : Byte} {opa : Clock}
    (h : storeCommand r s rmw imm opa st = .next t) : StepKept st t :=
  partCommand_stepKept h (.chipStore (st.clock_fits opa))

theorem illegalHeader_stepKept {c : Command} (h : illegalHeader c st = .next t) : StepKept st t :=
  command_stepKept h (.raise (.refl st))

theorem execMreset_stepKept (h : execMreset st = .next t) : StepKept st t := by
  cases h
  exact .machineReset st

theorem execDreset_stepKept {opa : Clock} (h : execDreset s opa st = .next t) : StepKept st t :=
  driveCommand_stepKept h fun _ => .driveReset (st.clock_fits opa)

theorem execDhreset_stepKept {opa : Clock} (h : execDhreset s opa st = .next t) : StepKept st t :=
  driveCommand_stepKept h fun _ => .driveReset (st.clock_fits opa)

theorem execDbgatt_stepKept {opa : Clock} (h : execDbgatt s opa st = .next t) : StepKept st t := by
  refine driveCommand_stepKept h fun _ => ?_
  split
  · exact .updDrive (.refl st) fun _ ⟨hl, _, _⟩ => ⟨hl, hl, st.clock_fits opa⟩
  · exact .refl st

theorem execClrerr_stepKept (h : execClrerr st = .next t) : StepKept st t :=
  command_stepKept h (.of_same rfl rfl rfl rfl fun _ => rfl)

theorem execCsrrd_stepKept {sel : Csr} {opb : BitVec 32} (h : execCsrrd s sel opb st = .next t) : StepKept st t := by
  refine command_stepKept h ?_
  split
  · split
    · exact .setRes (.refl st)
    · exact .raise (.refl st)
  · exact .raise (.refl st)

theorem execSnapsave_stepKept {kind : BlockKind} {opa : Clock} (h : execSnapsave s kind opa st = .next t) :
    StepKept st t := by
  refine partCommand_stepKept h (.setRes ?_)
  exact .trans (.catchAll (st.clock_fits opa)) (.of_same rfl rfl rfl rfl fun _ => rfl)

/-- The clock fields of a ProcessorContext block are CLK_W bits wide (20_memory.md R80, 44_system_ops.md R267). -/
theorem loadPctx_stepKept {bs : List Byte} : StepKept st (loadPctx s bs st) := by
  refine .tell ?_
  split
  · exact .setAuthClk (.refl st) (st.params.clockField_fits _ _)
  · exact .updDrive (.refl st) fun _ _ =>
      ⟨st.params.clockField_fits _ _, st.params.clockField_fits _ _, st.params.clockField_fits _ _⟩

theorem loadChip_stepKept {bs : List Byte} : StepKept st (loadChip s bs st) :=
  .resolveSilently (.updPart (.updPart (.refl st)))

theorem execSnapload_stepKept {kind : BlockKind} {bs : List Byte} (h : execSnapload s kind bs st = .next t) :
    StepKept st t := by
  refine partCommand_stepKept h ?_
  dsimp only
  split
  · exact .setRes (.raise (.refl st))
  · exact .setRes (.raise (.refl st))
  · cases kind with
    | pctx => exact .setRes loadPctx_stepKept
    | chip => exact .setRes loadChip_stepKept

theorem execSetfdrv_stepKept {opb : BitVec 32} (h : execSetfdrv opb st = .next t) : StepKept st t := by
  refine command_stepKept h ?_
  split
  · exact .foldl (.of_same rfl rfl rfl rfl fun _ => rfl) fun _ _ hu => hu.updDrive fun _ => id
  · exact .raise (.refl st)

theorem execSetfloc_stepKept {opb : BitVec 32} (h : execSetfloc s opb st = .next t) : StepKept st t := by
  refine driveCommand_stepKept h fun _ => ?_
  split
  · exact .updDrive (.refl st) fun _ => id
  · exact .raise (.refl st)

theorem execSetturbo_stepKept {on : Bool} (h : execSetturbo s on st = .next t) : StepKept st t := by
  refine driveCommand_stepKept h fun _ => ?_
  split
  · exact .raise (.refl st)
  · split
    · exact .updDrive (.refl st) fun _ => id
    · exact .raise (.refl st)

/-- The synchronisation point after a wake-up is the old one or the clock operand (40_clock_converter.md R135). -/
theorem execEnable_stepKept {opa : Clock} (h : execEnable s opa st = .next t) : StepKept st t := by
  refine driveCommand_stepKept h fun _ => ?_
  dsimp only
  split
  · exact .refl st
  · refine .resolve (.updDrive (.refl st) fun d ⟨hl, hs, hy⟩ => ⟨hl, hs, ?_⟩)
    dsimp only
    split
    · exact st.clock_fits opa
    · exact hy

theorem execDisable_stepKept (h : execDisable s st = .next t) : StepKept st t := by
  refine driveCommand_stepKept h fun _ => ?_
  split
  · exact .resolve (.updDrive (.updPart (.updPart (.refl st))) fun _ => id)
  · exact .refl st

theorem execCatchup_stepKept {opa : Clock} (h : execCatchup s opa st = .next t) : StepKept st t :=
  driveCommand_stepKept h fun hs => .catchUp (st.clock_fits opa) (Params.isDrive_ne_zero hs)

theorem execSyncall_stepKept {opa : Clock} (h : execSyncall opa st = .next t) : StepKept st t :=
  command_stepKept h (.catchAll (st.clock_fits opa))

theorem execIdletrap_stepKept (h : execIdletrap s st = .next t) : StepKept st t :=
  driveCommand_stepKept h fun _ => .idleTrap

theorem execGreg_stepKept (h : execGreg s st = .next t) : StepKept st t :=
  driveCommand_stepKept h fun _ => .updDrive (.refl st) fun _ => id

theorem execAdvance_stepKept {opb : BitVec 32} (h : execAdvance opb st = .next t) : StepKept st t :=
  command_stepKept h (.updChip (.setAuthClk (.refl st) (st.params.wrap_fits _)))

/-- A rebase lowers every clock it touches modulo 2^CLK_W (41_overflow_guard.md R166). -/
theorem execMaybereb_stepKept {opa : Clock} (h : execMaybereb opa st = .next t) : StepKept st t := by
  refine command_stepKept h ?_
  split
  · refine .setRes (.foldl (.setAuthClk (.refl st) (st.params.wrap_fits _)) fun _ _ hu => ?_)
    exact hu.updDrive fun _ hd => Drive.rebase_clocksFit _ hd
  · exact .setRes (.refl st)

theorem execOutchg_stepKept {act : Bool} {imm : Byte} {opa : Clock} (h : execOutchg s act imm opa st = .next t) :
    StepKept st t :=
  partCommand_stepKept h (.outChg (st.clock_fits opa))

theorem execResolve_stepKept (h : execResolve st = .next t) : StepKept st t :=
  command_stepKept h (.resolve (.refl st))

theorem execSetmode_stepKept {mode : BusMode} (h : execSetmode s mode st = .next t) : StepKept st t :=
  partCommand_stepKept h (.resolve (.updPart (.refl st)))

theorem execFastneg_stepKept {on : Bool} (h : execFastneg s on st = .next t) : StepKept st t :=
  partCommand_stepKept h (.updPart (.refl st))

theorem execFast_stepKept {dir : Direction} {imm : Byte} (h : execFast s dir imm st = .next t) : StepKept st t := by
  refine driveCommand_stepKept h fun _ => ?_
  split
  · exact .updChip (.refl st)
  · exact .raise (.refl st)

theorem execSignal_stepKept {line : ControlLine} {edge : Edge} (h : execSignal s line edge st = .next t) :
    StepKept st t :=
  partCommand_stepKept h (.updChip (.refl st))

theorem execPina_stepKept {imm : Byte} (h : execPina s imm st = .next t) : StepKept st t :=
  partCommand_stepKept h (.updPart (.refl st))

end Commands

/-- Every command keeps the parameters, the waiting commands and the clock widths. -/
theorem exec_stepKept (i : Instr) {s t : State} (h : exec i s = .next t) : StepKept s t := by
  cases i with
  | mreset => exact execMreset_stepKept h
  | dreset slot opa => exact execDreset_stepKept h
  | dhreset slot opa => exact execDhreset_stepKept h
  | dbgatt slot opa => exact execDbgatt_stepKept h
  | clrerr => exact execClrerr_stepKept h
  | csrrd slot sel opb => exact execCsrrd_stepKept h
  | snapsave slot kind opa => exact execSnapsave_stepKept h
  | snapload slot kind sdat => exact execSnapload_stepKept h
  | setfdrv opb => exact execSetfdrv_stepKept h
  | setfloc slot opb => exact execSetfloc_stepKept h
  | setturbo slot on => exact execSetturbo_stepKept h
  | enable slot opa => exact execEnable_stepKept h
  | disable slot => exact execDisable_stepKept h
  | catchup slot opa => exact execCatchup_stepKept h
  | syncall opa => exact execSyncall_stepKept h
  | idletrap slot => exact execIdletrap_stepKept h
  | greg slot => exact execGreg_stepKept h
  | advance opb => exact execAdvance_stepKept h
  | maybereb opa => exact execMaybereb_stepKept h
  | outchg slot act imm opa => exact execOutchg_stepKept h
  | resolve => exact execResolve_stepKept h
  | setmode slot mode => exact execSetmode_stepKept h
  | fastneg slot on => exact execFastneg_stepKept h
  | fast slot dir imm => exact execFast_stepKept h
  | rdPb slot opa | rdPa slot opa | rdDdrb slot opa | rdDdra slot opa | rdT1cl slot opa | rdT1ch slot opa | rdT1ll slot opa
  | rdT1lh slot opa | rdT2cl slot opa | rdT2ch slot opa | rdT2ll slot opa | rdT2lh slot opa | rdSr slot opa | rdCr slot opa
  | rdIfr slot opa | rdIer slot opa => exact readCommand_stepKept h
  | wrPb slot rmw imm opa | wrPa slot rmw imm opa | wrDdrb slot rmw imm opa | wrDdra slot rmw imm opa
  | wrT1cl slot rmw imm opa | wrT1ch slot rmw imm opa | wrT1ll slot rmw imm opa | wrT1lh slot rmw imm opa
  | wrT2cl slot rmw imm opa | wrT2ch slot rmw imm opa | wrT2ll slot rmw imm opa | wrT2lh slot rmw imm opa
  | wrSr slot rmw imm opa | wrCr slot rmw imm opa | wrIfr slot rmw imm opa | wrIer slot rmw imm opa =>
    exact storeCommand_stepKept h
  | signal slot line edge => exact execSignal_stepKept h
  | pina slot imm => exact execPina_stepKept h

/-- A step keeps what a command keeps, of the state with the oldest command taken. -/
theorem step_stepKept {s t : State} (h : step s = .next t) : StepKept { s with port := s.port.tail } t := by
  rcases (step_cases h).2 with ⟨hp, rfl⟩ | ⟨c, rest, hp, ⟨i, _, hi⟩ | ⟨e, _, he⟩⟩
  · exact .of_same rfl (by rw [hp]; rfl) rfl rfl fun _ => rfl
  · rw [hp]
    exact exec_stepKept i hi
  · rw [hp]
    exact illegalHeader_stepKept he

/-- Settles O11: a step keeps the widths by `step_stepKept`, and taking a command off the port touches no clock. -/
theorem stepKeepsClockWidths : Obligations.StepKeepsClockWidths :=
  fun _ _ hs h => (step_stepKept h).clocks hs

/-- Settles O14: the other two parts of `step_stepKept`. -/
theorem stepKeepsTheParameters : Obligations.StepKeepsTheParameters :=
  fun _ _ h => ⟨(step_stepKept h).params, (step_stepKept h).port⟩

/-- Settles O6: a legal parameter set meets every constraint, so one that breaks a constraint is illegal. -/
theorem stepRefusesIllegalParameters : Obligations.StepRefusesIllegalParameters := by
  refine ⟨fun s hbroken => step_illegal ?_, fun w h hh => horizon_product_lt w hh⟩
  cases hl : s.params.legal with
  | false => rfl
  | true => exact absurd (Params.constraints_of_legal hl) hbroken

end Sys2Proof.Machine

/-! The two invariants of the bus and of the sync factors (spec/10_state.md R24, R30; spec/40_clock_converter.md R130;
spec/42_bus_arbiter.md R176): the bus is the resolution of what the participants present, and each sync factor is the one of
the present frequencies. One relation says that both are kept. Its factor half is a relation of its own: between a change of
an output, a mode or an attachment and the resolution that follows it, that half is all that is kept. -/

namespace Sys2Proof.Machine

/-! What each invariant depends on. -/

/-- The sync factor of the drive is the one of its frequencies (10_state.md R24, 40_clock_converter.md R130). -/
def Drive.Tuned (fDrive : BitVec 32) (d : Drive) : Prop := d.sfFor fDrive = some d.sf

theorem State.factorsCurrent_iff (st : State) : st.FactorsCurrent ↔
    ∀ x, st.params.isDrive x = true → (st.drive x).Tuned st.fDrive := Iff.rfl

/-- Coherence depends on the bus, the attention level, and what the wired AND depends on. -/
theorem State.BusCoherent.congr {s t : State} (h : s.BusCoherent) (bus : t.bus = s.bus) (atn : t.atn = s.atn)
    (params : t.params = s.params) (en : ∀ x, (t.drive x).en = (s.drive x).en)
    (part : ∀ p, (t.part p).out = (s.part p).out ∧ (t.part p).mode = (s.part p).mode) : t.BusCoherent := by
  obtain ⟨hbus, hatn⟩ := h
  exact ⟨by rw [bus, State.wiredAnd_congr params en part]; exact hbus, by rw [bus, atn, params]; exact hatn⟩

/-- A resolution without edges leaves the bus coherent too: the wired AND does not look at the bus (44_system_ops.md R267). -/
theorem State.resolveSilently_coherent (st : State) : st.resolveSilently.BusCoherent := ⟨rfl, rfl⟩

/-- When every participant releases the bus, it is at all ones (42_bus_arbiter.md R175). -/
theorem State.wiredAnd_released {st : State} (h : ∀ p, contrib st.params (st.part p) = 0xFF) : st.wiredAnd = 0xFF :=
  List.foldlRecOn st.attachedSlots _ (motive := (· = 0xFF)) rfl fun acc hacc p _ => by rw [hacc, h p]; rfl

/-- The attention bit of the released bus is high, whichever bit it is. -/
theorem attention_released (P : Params) : P.attention 0xFF = true := by
  unfold Params.attention
  generalize P.atnBit = b
  revert b
  decide

/-- The bus is coherent when it and every participant are at their power-on values (10_state.md R44). -/
theorem State.busCoherent_of_reset {st : State} (bus : st.bus = 0xFF) (atn : st.atn = true)
    (part : ∀ p, st.part p = Part.reset) : st.BusCoherent := by
  have hreleased : st.wiredAnd = 0xFF := State.wiredAnd_released fun p => by rw [part p]; rfl
  exact ⟨by rw [bus, hreleased], by rw [atn, bus, attention_released]⟩

/-- The factors are current when every frequency is at its power-on value (10_state.md R44). -/
theorem State.factorsCurrent_of_reset {st : State} (fDrive : st.fDrive = 0)
    (drive : ∀ x, st.drive x = Drive.reset) : st.FactorsCurrent := by
  intro x _
  rw [drive x, fDrive]
  rfl

/-! The two relations and their rules, one for each state operation. -/

/-- An operation that keeps the sync factors current. -/
structure FactorsKept (s t : State) : Prop where
  params : t.params = s.params
  factors : s.FactorsCurrent → t.FactorsCurrent

/-- An operation that keeps the sync factors current and the bus coherent. -/
structure InvariantsKept (s t : State) : Prop extends FactorsKept s t where
  bus : s.BusCoherent → t.BusCoherent

theorem FactorsKept.refl (s : State) : FactorsKept s s := ⟨rfl, id⟩

theorem FactorsKept.trans {s t u : State} (h1 : FactorsKept s t) (h2 : FactorsKept t u) : FactorsKept s u :=
  ⟨h2.params.trans h1.params, h2.factors ∘ h1.factors⟩

theorem InvariantsKept.refl (s : State) : InvariantsKept s s := ⟨.refl s, id⟩

theorem InvariantsKept.trans {s t u : State} (h1 : InvariantsKept s t) (h2 : InvariantsKept t u) : InvariantsKept s u :=
  ⟨h1.toFactorsKept.trans h2.toFactorsKept, h2.bus ∘ h1.bus⟩

/-- Drive by drive. -/
theorem FactorsKept.of_drives {s t : State} (params : t.params = s.params)
    (drive : ∀ x, (s.drive x).Tuned s.fDrive → (t.drive x).Tuned t.fDrive) : FactorsKept s t where
  params := params
  factors h := by
    rw [State.factorsCurrent_iff] at h ⊢
    exact fun x hx => drive x (h x (params ▸ hx))

section Rules

variable {s t : State}

theorem FactorsKept.updPart {p : Slot} {f : Part → Part} (h : FactorsKept s t) : FactorsKept s (t.updPart p f) :=
  h.trans (.of_drives rfl fun _ => id)

theorem FactorsKept.updAgent {q : Slot} {f : Agent → Agent} (h : FactorsKept s t) : FactorsKept s (t.updAgent q f) :=
  h.trans (.of_drives rfl fun _ => id)

theorem FactorsKept.tell {q : Slot} {e : CpuEvent} (h : FactorsKept s t) : FactorsKept s (t.tell q e) := h.updAgent

theorem FactorsKept.updDrive {x : Slot} {f : Drive → Drive} (h : FactorsKept s t)
    (hf : (t.drive x).Tuned t.fDrive → (f (t.drive x)).Tuned t.fDrive) : FactorsKept s (t.updDrive x f) := by
  refine h.trans (.of_drives rfl fun y hy => ?_)
  rw [State.updDrive_drive]
  split
  · rename_i e
    exact hf (e ▸ hy)
  · exact hy

/-- A resolution makes the bus coherent, so what comes before it need keep the factors only (42_bus_arbiter.md R176). -/
theorem InvariantsKept.resolve (h : FactorsKept s t) : InvariantsKept s t.resolve where
  toFactorsKept := h.trans (.of_drives t.resolve_params fun x hx => by
    rw [t.resolve_drive, t.resolve_fDrive]
    exact hx)
  bus _ := t.resolve_coherent

theorem InvariantsKept.resolveSilently (h : FactorsKept s t) : InvariantsKept s t.resolveSilently where
  toFactorsKept := h.trans (.of_drives rfl fun _ => id)
  bus _ := t.resolveSilently_coherent

/-- A change of registers that neither invariant looks at. -/
theorem InvariantsKept.of_same {u : State} (h : InvariantsKept s t) (params : u.params = t.params)
    (fDrive : u.fDrive = t.fDrive) (bus : u.bus = t.bus) (atn : u.atn = t.atn) (drives : u.drives = t.drives)
    (parts : u.parts = t.parts) : InvariantsKept s u := by
  have hd : ∀ x, u.drive x = t.drive x := fun x => by rw [State.drive, drives, State.drive]
  have hp : ∀ p, u.part p = t.part p := fun p => by rw [State.part, parts, State.part]
  refine h.trans ⟨.of_drives params fun x hx => ?_, fun hb => hb.congr bus atn params (fun x => ?_) fun p => ?_⟩
  · rw [hd, fDrive]
    exact hx
  · rw [hd]
  · rw [hp]
    exact ⟨rfl, rfl⟩

theorem InvariantsKept.updAgent {q : Slot} {f : Agent → Agent} (h : InvariantsKept s t) :
    InvariantsKept s (t.updAgent q f) := h.of_same rfl rfl rfl rfl rfl rfl

theorem InvariantsKept.tell {q : Slot} {e : CpuEvent} (h : InvariantsKept s t) : InvariantsKept s (t.tell q e) :=
  h.updAgent

theorem InvariantsKept.raise {c : Condition} {x : Slot} (h : InvariantsKept s t) : InvariantsKept s (t.raise c x) :=
  h.of_same rfl rfl rfl rfl rfl rfl

theorem InvariantsKept.setRes {v : Nat} (h : InvariantsKept s t) : InvariantsKept s (t.setRes v) :=
  h.of_same rfl rfl rfl rfl rfl rfl

theorem InvariantsKept.setAuthClk {c : Clock} (h : InvariantsKept s t) : InvariantsKept s { t with authClk := c } :=
  h.of_same rfl rfl rfl rfl rfl rfl

theorem InvariantsKept.updPart {p : Slot} {f : Part → Part} (h : InvariantsKept s t)
    (hf : ∀ x : Part, (f x).out = x.out ∧ (f x).mode = x.mode) : InvariantsKept s (t.updPart p f) := by
  refine h.trans ⟨.updPart (.refl t), fun hb => hb.congr rfl rfl rfl (fun _ => rfl) fun q => ?_⟩
  rw [State.updPart_part]
  split
  · rename_i e
    rw [e]
    exact hf _
  · exact ⟨rfl, rfl⟩

theorem InvariantsKept.updChip {p : Slot} {f : Chip → Chip} (h : InvariantsKept s t) : InvariantsKept s (t.updChip p f) :=
  h.updPart fun _ => ⟨rfl, rfl⟩

/-- The new drive registers may hold other frequencies, with the factor that belongs to them. -/
theorem InvariantsKept.updDrive {x : Slot} {f : Drive → Drive} (h : InvariantsKept s t)
    (hf : (t.drive x).Tuned t.fDrive → (f (t.drive x)).Tuned t.fDrive) (hen : (f (t.drive x)).en = (t.drive x).en) :
    InvariantsKept s (t.updDrive x f) := by
  refine h.trans ⟨.updDrive (.refl t) hf, fun hb => hb.congr rfl rfl rfl (fun y => ?_) fun _ => ⟨rfl, rfl⟩⟩
  rw [State.updDrive_drive]
  split
  · rename_i e
    rw [hen, e]
  · rfl

/-- An operation on each slot of a list in turn. -/
theorem InvariantsKept.foldl {f : State → Slot → State} {l : List Slot} (h : InvariantsKept s t)
    (hf : ∀ u x, InvariantsKept s u → InvariantsKept s (f u x)) : InvariantsKept s (l.foldl f t) :=
  List.foldlRecOn l f (motive := InvariantsKept s) h fun u hu x _ => hf u x hu

end Rules

/-! Catch-up and what nests in it: whatever changes an output there resolves the bus at once. -/

/-- Each step of a catch-up keeps the relation to where it began (40_clock_converter.md R137 to R145). -/
theorem invariantsKept_inv (T : Clock) (s0 : State) : CatchInv T (· ≠ 0) (fun _ => True) (InvariantsKept s0) where
  nonhost _ h := h
  drives _ _ _ hd := Params.isDrive_ne_zero ((Params.mem_driveSlots _ _).mp hd)
  enter _ _ h _ _ _ _ := ⟨trivial, h.updDrive id rfl⟩
  ask _ _ _ _ h := h.updAgent
  jam _ _ _ _ h _ := .raise (.updDrive h id rfl)
  ticks _ _ _ _ h := .updChip (.updDrive h id rfl)
  read _ _ _ _ _ h := h.updPart fun _ => ⟨rfl, rfl⟩
  hear _ _ _ _ h := h.tell
  store _ _ _ _ _ h := h.updChip
  signal _ _ _ _ _ h := h.updChip
  clamp _ _ _ h _ := h.raise
  notify _ _ _ _ h := .resolve (.updPart h.toFactorsKept)

section Effects

variable {st : State}

theorem InvariantsKept.of_catchUp {x : Slot} {T : Clock} (hx : x ≠ 0) : InvariantsKept st (catchUp x T st) :=
  (catchUp_keeps (invariantsKept_inv T st) x st hx (.refl st)).1

theorem InvariantsKept.of_catchAll {T : Clock} : InvariantsKept st (catchAll catchUp T st) :=
  (catchAll_keeps (invariantsKept_inv T st) (catchUp_keeps (invariantsKept_inv T st)) st (.refl st)).1

theorem InvariantsKept.of_outChg {p : Slot} {byte : Byte} {act : Bool} {T : Clock} :
    InvariantsKept st (outChg catchUp p byte act T st) :=
  (outChg_keeps (invariantsKept_inv T st) (catchUp_keeps (invariantsKept_inv T st)) trivial byte act st (.refl st)).1

theorem InvariantsKept.of_chipStore {p : Slot} {r : ChipReg} {b : Byte} {rmw : Bool} {T : Clock} :
    InvariantsKept st (chipStore catchUp p r b rmw T st) :=
  (chipStore_keeps (invariantsKept_inv T st) (catchUp_keeps (invariantsKept_inv T st)) trivial r b rmw st (.refl st)).1

/-- The host's read of port B catches everybody up and resolves first (43_peripheral_chip.md R206, R208). -/
theorem InvariantsKept.of_chipRead {p : Slot} {r : ChipReg} {T : Clock} :
    InvariantsKept st (chipRead catchUp p r T st).2 := by
  by_cases h : p = 0 ∧ r = .pb
  · obtain ⟨rfl, rfl⟩ := h
    rw [chipRead_host]
    dsimp only
    exact .updPart (.resolve of_catchAll.toFactorsKept) fun _ => ⟨rfl, rfl⟩
  · rw [chipRead_plain (by tauto)]
    dsimp only
    exact .updPart (.refl st) fun _ => ⟨rfl, rfl⟩

theorem InvariantsKept.of_idleTrap {x : Slot} : InvariantsKept st (idleTrap x st) :=
  (idleTrap_keeps (invariantsKept_inv 0 st) trivial st (.refl st)).1

/-! Resets and snapshots. -/

/-- Both invariants hold of the power-on values, whatever held before (10_state.md R44, 44_system_ops.md R260). -/
theorem InvariantsKept.of_machineReset : InvariantsKept st st.machineReset := by
  refine .foldl ⟨⟨rfl, fun _ => ?_⟩, fun _ => ?_⟩ fun _ _ h => h.tell
  · exact State.factorsCurrent_of_reset rfl fun x => Bank.read_fill _ x
  · exact State.busCoherent_of_reset rfl rfl fun p => Bank.read_fill _ p

theorem InvariantsKept.of_driveReset {kind : ResetKind} {x : Slot} {now : Clock} :
    InvariantsKept st (driveReset kind x now st) :=
  .resolve (.tell (.updPart (.updPart (.updDrive (.refl st) id))))

theorem InvariantsKept.of_loadPctx {x : Slot} {bs : List Byte} : InvariantsKept st (loadPctx x bs st) := by
  refine .tell ?_
  split
  · exact .setAuthClk (.refl st)
  · exact .updDrive (.refl st) id rfl

theorem InvariantsKept.of_loadChip {x : Slot} {bs : List Byte} : InvariantsKept st (loadChip x bs st) :=
  .resolveSilently (.updPart (.updPart (.refl st)))

/-! Frequencies. -/

/-- Changing the drive registers of a list of distinct slots one after the other changes each of them once, and nothing
else. -/
theorem foldl_updDrive_spec (f : Drive → Drive) {l : List Slot} (hl : l.Nodup) (st : State) :
    let t := l.foldl (fun s x => s.updDrive x f) st
    t = { st with drives := t.drives } ∧ ∀ x, t.drive x = if x ∈ l then f (st.drive x) else st.drive x := by
  induction l generalizing st with
  | nil => simp
  | cons a l ih =>
    obtain ⟨ha, hl'⟩ := List.nodup_cons.mp hl
    obtain ⟨hframe, hdrive⟩ := ih hl' (st.updDrive a f)
    refine ⟨by rw [List.foldl_cons, hframe]; rfl, fun x => ?_⟩
    rw [List.foldl_cons, hdrive x, State.updDrive_drive]
    by_cases hx : x = a <;> simp [hx, ha]

/-- The driving frequency replaced, and every drive's factor by the one that then fits (40_clock_converter.md R132). -/
theorem InvariantsKept.of_retuneAll {opb : BitVec 32}
    (hfit : st.params.driveSlots.all (fun x => ((st.drive x).sfFor opb).isSome) = true) :
    InvariantsKept st (st.params.driveSlots.foldl
      (fun u x => u.updDrive x (fun d => { d with sf := (d.sfFor opb).getD 0 })) { st with fDrive := opb }) := by
  obtain ⟨hframe, hdrive⟩ := foldl_updDrive_spec (fun d => { d with sf := (d.sfFor opb).getD 0 })
    st.params.driveSlots_nodup { st with fDrive := opb }
  have htuned : ∀ d : Drive, (d.sfFor opb).isSome = true → { d with sf := (d.sfFor opb).getD 0 }.Tuned opb := by
    intro d hd
    obtain ⟨q, hq⟩ := Option.isSome_iff_exists.mp hd
    show d.sfFor opb = some ((d.sfFor opb).getD 0)
    rw [hq, Option.getD_some]
  rw [hframe]
  refine ⟨⟨rfl, fun _ => (State.factorsCurrent_iff _).mpr fun x hx => ?_⟩,
    fun hb => hb.congr rfl rfl rfl (fun x => ?_) fun _ => ⟨rfl, rfl⟩⟩
  · have hmem : x ∈ st.params.driveSlots := (Params.mem_driveSlots _ x).mpr hx
    have hx' := hdrive x
    rw [if_pos hmem] at hx'
    exact hx' ▸ htuned _ (List.all_eq_true.mp hfit x hmem)
  · refine (congrArg Drive.en (hdrive x)).trans ?_
    split <;> rfl

/-- A rebase touches clocks only (41_overflow_guard.md R166). -/
theorem Drive.rebase_keeps (P : Params) (amt : Clock) (d : Drive) :
    (∀ f, d.Tuned f → (d.rebase P amt).Tuned f) ∧ (d.rebase P amt).en = d.en := by
  unfold Drive.rebase
  split
  · exact ⟨fun _ => id, rfl⟩
  · exact ⟨fun _ => id, rfl⟩

end Effects

/-! Commands. -/

section Commands

variable {st t : State} {x : Slot} {f : State → State}

theorem command_invariantsKept (h : command st f = .next t) (hf : InvariantsKept st (f st)) : InvariantsKept st t := by
  rcases command_cases h with ⟨_, rfl⟩ | ⟨_, rfl⟩
  · exact .refl _
  · exact hf

theorem driveCommand_invariantsKept (h : driveCommand st x f = .next t)
    (hf : st.params.isDrive x = true → InvariantsKept st (f st)) : InvariantsKept st t := by
  rcases driveCommand_cases h with ⟨_, rfl⟩ | ⟨_, _, rfl⟩ | ⟨_, hx, rfl⟩
  · exact .refl _
  · exact .raise (.refl _)
  · exact hf hx

theorem partCommand_invariantsKept (h : partCommand st x f = .next t) (hf : InvariantsKept st (f st)) :
    InvariantsKept st t := by
  rcases partCommand_cases h with ⟨_, rfl⟩ | ⟨_, _, rfl⟩ | ⟨_, _, rfl⟩
  · exact .refl _
  · exact .raise (.refl _)
  · exact hf

theorem readCommand_invariantsKept {r : ChipReg} {opa : Clock} (h : readCommand r x opa st = .next t) :
    InvariantsKept st t := partCommand_invariantsKept h (.setRes .of_chipRead)

theorem storeCommand_invariantsKept {r : ChipReg} {rmw : Bool} {imm : Byte} {opa : Clock}
    (h : storeCommand r x rmw imm opa st = .next t) : InvariantsKept st t :=
  partCommand_invariantsKept h .of_chipStore

theorem illegalHeader_invariantsKept {c : Command} (h : illegalHeader c st = .next t) : InvariantsKept st t :=
  command_invariantsKept h (.raise (.refl st))

theorem execMreset_invariantsKept (h : execMreset st = .next t) : InvariantsKept st t := by
  cases h
  exact .of_machineReset

theorem execDreset_invariantsKept {opa : Clock} (h : execDreset x opa st = .next t) : InvariantsKept st t :=
  driveCommand_invariantsKept h fun _ => .of_driveReset

theorem execDhreset_invariantsKept {opa : Clock} (h : execDhreset x opa st = .next t) : InvariantsKept st t :=
  driveCommand_invariantsKept h fun _ => .of_driveReset

theorem execDbgatt_invariantsKept {opa : Clock} (h : execDbgatt x opa st = .next t) : InvariantsKept st t := by
  refine driveCommand_invariantsKept h fun _ => ?_
  split
  · exact .updDrive (.refl st) id rfl
  · exact .refl st

theorem execClrerr_invariantsKept (h : execClrerr st = .next t) : InvariantsKept st t :=
  command_invariantsKept h ((InvariantsKept.refl st).of_same rfl rfl rfl rfl rfl rfl)

theorem execCsrrd_invariantsKept {sel : Csr} {opb : BitVec 32} (h : execCsrrd x sel opb st = .next t) :
    InvariantsKept st t := by
  refine command_invariantsKept h ?_
  split
  · split
    · exact .setRes (.refl st)
    · exact .raise (.refl st)
  · exact .raise (.refl st)

theorem execSnapsave_invariantsKept {kind : BlockKind} {opa : Clock} (h : execSnapsave x kind opa st = .next t) :
    InvariantsKept st t :=
  partCommand_invariantsKept h (.setRes (InvariantsKept.of_catchAll.of_same rfl rfl rfl rfl rfl rfl))

theorem execSnapload_invariantsKept {kind : BlockKind} {bs : List Byte} (h : execSnapload x kind bs st = .next t) :
    InvariantsKept st t := by
  refine partCommand_invariantsKept h ?_
  dsimp only
  split
  · exact .setRes (.raise (.refl st))
  · exact .setRes (.raise (.refl st))
  · cases kind with
    | pctx => exact .setRes .of_loadPctx
    | chip => exact .setRes .of_loadChip

/-- SETFDRV replaces every factor when all of them fit, and none otherwise (40_clock_converter.md R132). -/
theorem execSetfdrv_invariantsKept {opb : BitVec 32} (h : execSetfdrv opb st = .next t) : InvariantsKept st t := by
  refine command_invariantsKept h ?_
  split
  · rename_i hfit
    exact .of_retuneAll hfit
  · exact .raise (.refl st)

/-- SETFLOC writes the frequency and the factor that belongs to it, or neither (40_clock_converter.md R133). -/
theorem execSetfloc_invariantsKept {opb : BitVec 32} (h : execSetfloc x opb st = .next t) : InvariantsKept st t := by
  refine driveCommand_invariantsKept h fun _ => ?_
  split
  · rename_i q hq
    exact .updDrive (.refl st) (fun _ => hq) rfl
  · exact .raise (.refl st)

/-- SETTURBO writes the turbo bit and the factor that belongs to it, or neither (40_clock_converter.md R134). -/
theorem execSetturbo_invariantsKept {on : Bool} (h : execSetturbo x on st = .next t) : InvariantsKept st t := by
  refine driveCommand_invariantsKept h fun _ => ?_
  split
  · exact .raise (.refl st)
  · split
    · rename_i q hq
      exact .updDrive (.refl st) (fun _ => hq) rfl
    · exact .raise (.refl st)

theorem execEnable_invariantsKept {opa : Clock} (h : execEnable x opa st = .next t) : InvariantsKept st t := by
  refine driveCommand_invariantsKept h fun _ => ?_
  dsimp only
  split
  · exact .refl st
  · exact .resolve (.updDrive (.refl st) id)

theorem execDisable_invariantsKept (h : execDisable x st = .next t) : InvariantsKept st t := by
  refine driveCommand_invariantsKept h fun _ => ?_
  split
  · exact .resolve (.updDrive (.updPart (.updPart (.refl st))) id)
  · exact .refl st

theorem execCatchup_invariantsKept {opa : Clock} (h : execCatchup x opa st = .next t) : InvariantsKept st t :=
  driveCommand_invariantsKept h fun hx => .of_catchUp (Params.isDrive_ne_zero hx)

theorem execSyncall_invariantsKept {opa : Clock} (h : execSyncall opa st = .next t) : InvariantsKept st t :=
  command_invariantsKept h .of_catchAll

theorem execIdletrap_invariantsKept (h : execIdletrap x st = .next t) : InvariantsKept st t :=
  driveCommand_invariantsKept h fun _ => .of_idleTrap

theorem execGreg_invariantsKept (h : execGreg x st = .next t) : InvariantsKept st t :=
  driveCommand_invariantsKept h fun _ => .updDrive (.refl st) id rfl

theorem execAdvance_invariantsKept {opb : BitVec 32} (h : execAdvance opb st = .next t) : InvariantsKept st t :=
  command_invariantsKept h (.updChip (.setAuthClk (.refl st)))

theorem execMaybereb_invariantsKept {opa : Clock} (h : execMaybereb opa st = .next t) : InvariantsKept st t := by
  refine command_invariantsKept h ?_
  split
  · refine .setRes (.foldl (.setAuthClk (.refl st)) fun u y hu => ?_)
    obtain ⟨htuned, hen⟩ := Drive.rebase_keeps st.params (BitVec.ofNat 64 st.params.rebaseChunk) (u.drive y)
    exact hu.updDrive (htuned _) hen
  · exact .setRes (.refl st)

theorem execOutchg_invariantsKept {act : Bool} {imm : Byte} {opa : Clock} (h : execOutchg x act imm opa st = .next t) :
    InvariantsKept st t := partCommand_invariantsKept h .of_outChg

theorem execResolve_invariantsKept (h : execResolve st = .next t) : InvariantsKept st t :=
  command_invariantsKept h (.resolve (.refl st))

theorem execSetmode_invariantsKept {mode : BusMode} (h : execSetmode x mode st = .next t) : InvariantsKept st t :=
  partCommand_invariantsKept h (.resolve (.updPart (.refl st)))

theorem execFastneg_invariantsKept {on : Bool} (h : execFastneg x on st = .next t) : InvariantsKept st t :=
  partCommand_invariantsKept h (.updPart (.refl st) fun _ => ⟨rfl, rfl⟩)

theorem execFast_invariantsKept {dir : Direction} {imm : Byte} (h : execFast x dir imm st = .next t) :
    InvariantsKept st t := by
  refine driveCommand_invariantsKept h fun _ => ?_
  split
  · exact .updChip (.refl st)
  · exact .raise (.refl st)

theorem execSignal_invariantsKept {line : ControlLine} {edge : Edge} (h : execSignal x line edge st = .next t) :
    InvariantsKept st t := partCommand_invariantsKept h (.updChip (.refl st))

theorem execPina_invariantsKept {imm : Byte} (h : execPina x imm st = .next t) : InvariantsKept st t :=
  partCommand_invariantsKept h (.updPart (.refl st) fun _ => ⟨rfl, rfl⟩)

end Commands

/-- Every command keeps the bus coherent and the sync factors current. -/
theorem exec_invariantsKept (i : Instr) {s t : State} (h : exec i s = .next t) : InvariantsKept s t := by
  cases i with
  | mreset => exact execMreset_invariantsKept h
  | dreset slot opa => exact execDreset_invariantsKept h
  | dhreset slot opa => exact execDhreset_invariantsKept h
  | dbgatt slot opa => exact execDbgatt_invariantsKept h
  | clrerr => exact execClrerr_invariantsKept h
  | csrrd slot sel opb => exact execCsrrd_invariantsKept h
  | snapsave slot kind opa => exact execSnapsave_invariantsKept h
  | snapload slot kind sdat => exact execSnapload_invariantsKept h
  | setfdrv opb => exact execSetfdrv_invariantsKept h
  | setfloc slot opb => exact execSetfloc_invariantsKept h
  | setturbo slot on => exact execSetturbo_invariantsKept h
  | enable slot opa => exact execEnable_invariantsKept h
  | disable slot => exact execDisable_invariantsKept h
  | catchup slot opa => exact execCatchup_invariantsKept h
  | syncall opa => exact execSyncall_invariantsKept h
  | idletrap slot => exact execIdletrap_invariantsKept h
  | greg slot => exact execGreg_invariantsKept h
  | advance opb => exact execAdvance_invariantsKept h
  | maybereb opa => exact execMaybereb_invariantsKept h
  | outchg slot act imm opa => exact execOutchg_invariantsKept h
  | resolve => exact execResolve_invariantsKept h
  | setmode slot mode => exact execSetmode_invariantsKept h
  | fastneg slot on => exact execFastneg_invariantsKept h
  | fast slot dir imm => exact execFast_invariantsKept h
  | rdPb slot opa | rdPa slot opa | rdDdrb slot opa | rdDdra slot opa | rdT1cl slot opa | rdT1ch slot opa | rdT1ll slot opa
  | rdT1lh slot opa | rdT2cl slot opa | rdT2ch slot opa | rdT2ll slot opa | rdT2lh slot opa | rdSr slot opa | rdCr slot opa
  | rdIfr slot opa | rdIer slot opa => exact readCommand_invariantsKept h
  | wrPb slot rmw imm opa | wrPa slot rmw imm opa | wrDdrb slot rmw imm opa | wrDdra slot rmw imm opa
  | wrT1cl slot rmw imm opa | wrT1ch slot rmw imm opa | wrT1ll slot rmw imm opa | wrT1lh slot rmw imm opa
  | wrT2cl slot rmw imm opa | wrT2ch slot rmw imm opa | wrT2ll slot rmw imm opa | wrT2lh slot rmw imm opa
  | wrSr slot rmw imm opa | wrCr slot rmw imm opa | wrIfr slot rmw imm opa | wrIer slot rmw imm opa =>
    exact storeCommand_invariantsKept h
  | signal slot line edge => exact execSignal_invariantsKept h
  | pina slot imm => exact execPina_invariantsKept h

/-- A step keeps what a command keeps: taking the oldest command off the port changes no register. -/
theorem step_invariantsKept {s t : State} (h : step s = .next t) : InvariantsKept s t := by
  have htake : ∀ rest, InvariantsKept s { s with port := rest } := fun _ =>
    (InvariantsKept.refl s).of_same rfl rfl rfl rfl rfl rfl
  rcases (step_cases h).2 with ⟨_, rfl⟩ | ⟨c, rest, _, ⟨i, _, hi⟩ | ⟨e, _, he⟩⟩
  · exact .refl _
  · exact (htake rest).trans (exec_invariantsKept i hi)
  · exact (htake rest).trans (illegalHeader_invariantsKept he)

/-- Settles O10: the bus half of `step_invariantsKept`. -/
theorem stepKeepsTheBusInvariant : Obligations.StepKeepsTheBusInvariant :=
  fun _ _ hs h => (step_invariantsKept h).bus hs

/-- Settles O13: the factor half of `step_invariantsKept`. -/
theorem stepKeepsSyncFactorsCurrent : Obligations.StepKeepsSyncFactorsCurrent :=
  fun _ _ hs h => (step_invariantsKept h).factors hs

/-- Settles O9: the power-on values meet each invariant, by the facts that also give what MRESET keeps; the parameters and the
error bits of the reset state are constants. -/
theorem resetMeetsTheInvariants : Obligations.ResetMeetsTheInvariants := by
  have hdrive : ∀ x, State.reset.drive x = Drive.reset := fun x => Bank.read_fill _ x
  have hclocks : State.reset.ClocksFit := by
    rw [State.clocksFit_iff]
    refine ⟨Params.zero_fits _, Params.zero_fits _, fun x => ?_⟩
    rw [hdrive x]
    exact Drive.reset_clocksFit _
  exact ⟨by decide, State.busCoherent_of_reset rfl rfl fun p => Bank.read_fill _ p, hclocks,
    by unfold State.ErrLegal; decide, State.factorsCurrent_of_reset rfl hdrive⟩

end Sys2Proof.Machine

/-! The command port, the range checks, the CSR space and the refusals of SNAPLOAD (spec/20_memory.md R71 to R85): one lemma says
what each shared check answers, and each statement is put together from these. -/

namespace Sys2Proof

/-- The upper bits of a byte are zero, extracted or masked. -/
theorem extract_high_eq_zero_iff (b : Byte) {k : Nat} (hk : k ≤ 8) :
    b.extractLsb' k (8 - k) = 0 ↔ b &&& (BitVec.allOnes 8 <<< k) = 0 := by
  have hfield : b.extractLsb' k (8 - k) = 0 ↔ ∀ i, i < 8 - k → b.getLsbD (k + i) = false := by
    simp [BitVec.eq_of_getLsbD_eq_iff]
  have hmask : b &&& (BitVec.allOnes 8 <<< k) = 0 ↔ ∀ i, i < 8 → k ≤ i → b.getLsbD i = false := by
    rw [BitVec.eq_of_getLsbD_eq_iff]
    refine forall₂_congr fun i hi => ?_
    rw [BitVec.getLsbD_and, BitVec.getLsbD_shiftLeft, BitVec.getLsbD_allOnes]
    by_cases hki : k ≤ i
    · have hones : i - k < 8 := by omega
      simp [hi, hki, Nat.not_lt.mpr hki, hones]
    · simp [hki, Nat.lt_of_not_le hki]
  rw [hfield, hmask]
  constructor
  · intro h i hi hki
    have := h (i - k) (by omega)
    rwa [Nat.add_sub_cancel' hki] at this
  · exact fun h i hi => h (k + i) (by omega) (by omega)

/-- A byte string spells 0 by its first byte and the rest, also past its end, where every byte reads 0. -/
theorem leNat_bytesAt_succ (off n : Nat) (bs : List Byte) :
    leNat (bytesAt off (n + 1) bs) = (byteAt off bs).toNat + 256 * leNat (bytesAt (off + 1) n bs) := by
  by_cases h : off < bs.length
  · rw [bytesAt, List.drop_eq_getElem_cons h, List.take_succ_cons, leNat, byteAt, List.getD_eq_getElem _ _ h, bytesAt]
  · have hoff : bs.length ≤ off := by omega
    have hnext : bs.length ≤ off + 1 := by omega
    rw [bytesAt, bytesAt, byteAt, List.drop_eq_nil_of_le hoff, List.drop_eq_nil_of_le hnext, List.getD_eq_default _ _ hoff,
      List.take_nil, List.take_nil]
    rfl

/-- A field of a byte string is 0 exactly when each of its bytes is. -/
theorem leNat_bytesAt_eq_zero_iff (off n : Nat) (bs : List Byte) :
    leNat (bytesAt off n bs) = 0 ↔ ∀ k, k < n → byteAt (off + k) bs = 0 := by
  induction n generalizing off with
  | zero => simp [bytesAt, leNat]
  | succ n ih =>
    have hbyte : (byteAt off bs).toNat = 0 ↔ byteAt (off + 0) bs = 0 := by simp [BitVec.toNat_eq]
    rw [leNat_bytesAt_succ, Nat.add_eq_zero_iff, Nat.mul_eq_zero, hbyte, ih, Nat.forall_lt_succ_left]
    simp [Nat.add_assoc, Nat.add_comm 1]

/-- Two fields side by side are one field. -/
theorem leNat_bytesAt_add_eq_zero_iff (off m n : Nat) (bs : List Byte) :
    leNat (bytesAt off (m + n) bs) = 0 ↔
      leNat (bytesAt off m bs) = 0 ∧ leNat (bytesAt (off + m) n bs) = 0 := by
  simp only [leNat_bytesAt_eq_zero_iff]
  constructor
  · intro h
    refine ⟨fun k hk => h k (by omega), fun k hk => ?_⟩
    rw [Nat.add_assoc]
    exact h (m + k) (by omega)
  · rintro ⟨hfirst, hsecond⟩ k hk
    by_cases hkm : k < m
    · exact hfirst k hkm
    · have := hsecond (k - m) (by omega)
      rwa [Nat.add_assoc, Nat.add_sub_cancel' (by omega)] at this

/-- The mode bit of SETMODE and SCTL (20_memory.md R72). -/
theorem BusMode.decide_eq_active (m : BusMode) : decide (m = .active) = m.toBool := by cases m <;> rfl

end Sys2Proof

namespace Sys2Proof.Machine

/-! Steps (20_memory.md R85, 30_encoding.md R105, R106). -/

theorem step_empty {s : State} (hlegal : s.params.legal = true) (hport : s.port = []) : step s = .next s := by
  simp [step, hlegal, State.takeCommand, hport]

theorem step_decoded {s : State} {c : Command} {rest : List Command} {i : Instr} (hlegal : s.params.legal = true)
    (hport : s.port = c :: rest) (hdecode : decode c = .ok i) : step s = exec i { s with port := rest } := by
  simp [step, hlegal, State.takeCommand, hport, hdecode]

theorem step_undecoded {s : State} {c : Command} {rest : List Command} {e : DecodeError} (hlegal : s.params.legal = true)
    (hport : s.port = c :: rest) (hdecode : decode c = .error e) : step s = illegalHeader c { s with port := rest } := by
  simp [step, hlegal, State.takeCommand, hport, hdecode]

/-- A header that spells no command: IllegalCommand with its slot field, ignored in the fatal state (60_exceptions.md R297). -/
theorem illegalHeader_eq (c : Command) (s : State) :
    illegalHeader c s = .next (if s.err.getLsbD 0 then s
      else { s with err := s.err ||| 0x081, errSlot := c.header.extractLsb' 20 4 }) := by
  cases hfatal : s.err.getLsbD 0 with
  | true => exact command_fatal hfatal _
  | false => exact command_live hfatal _

/-- Settles O5: the three ways a step of a legal block can go. -/
theorem stepRunsTheDecodedCommand : Obligations.StepRunsTheDecodedCommand := by
  intro s hlegal
  refine ⟨step_empty hlegal, fun c rest hport => ⟨fun i hi => step_decoded hlegal hport hi, fun e he => ?_⟩⟩
  rw [step_undecoded hlegal hport he, illegalHeader_eq]

/-! Range checks (20_memory.md R73, R74; 30_encoding.md R105 steps 4 and 5). -/

/-- The slot field of a command is the slot of the fields it is encoded from (30_encoding.md R101). -/
theorem slotField_of_header {i : Instr} {f : Fields} {x : Slot} (hheader : (encode i).header = f.toHeader)
    (hslot : f.slot = x) : i.slotField = x := by
  rw [Instr.slotField, hheader, Fields.ofHeader_toHeader, hslot]

section OutOfRange

variable {s : State} {i : Instr} {x : Slot} {f : State → State}

theorem driveCommand_outOfRange (hexec : exec i = fun st => driveCommand st x f) (hfield : i.slotField = x)
    (hlive : s.err.getLsbD 0 = false) (hx : s.params.isDrive x = false) :
    exec i s = .next { s with err := s.err ||| 0x021, errSlot := i.slotField } := by
  simp only [hexec, hfield, driveCommand_eq, command_live hlive, hx]
  rfl

theorem partCommand_outOfRange (hexec : exec i = fun st => partCommand st x f) (hfield : i.slotField = x)
    (hlive : s.err.getLsbD 0 = false) (hx : s.params.isPart x = false) :
    exec i s = .next { s with err := s.err ||| 0x021, errSlot := i.slotField } := by
  simp only [hexec, hfield, partCommand_eq, command_live hlive, hx]
  rfl

/-- CSRRD outside its table or its slots: the index is judged first (30_encoding.md R105 step 4). -/
theorem csrrd_outOfRange {sel : Csr} {n : BitVec 32} (hlive : s.err.getLsbD 0 = false)
    (h : (sel.legalIndex s.params n && sel.legalSlot s.params x) = false) :
    exec (.csrrd x sel n) s = .next { s with
      err := s.err ||| (if sel.legalIndex s.params n then 0x021 else 0x081)
      errSlot := (Instr.csrrd x sel n).slotField } := by
  have hfield : (Instr.csrrd x sel n).slotField = x := slotField_of_header rfl rfl
  have hexec : exec (.csrrd x sel n) s = execCsrrd x sel n s := rfl
  rw [hexec, hfield, execCsrrd, command_live hlive]
  cases hindex : sel.legalIndex s.params n with
  | false => rfl
  | true =>
    rw [hindex, Bool.true_and] at h
    rw [h]
    rfl

end OutOfRange

/-- Settles O8: each command with a slot is a drive command, a participant command or CSRRD, and refuses by the rule of its kind;
the others have nothing to be out of range. -/
theorem outOfRangeCommandsAreFatal : Obligations.OutOfRangeCommandsAreFatal := by
  intro i s hlive hrange
  cases i with
  | mreset | clrerr | setfdrv opb | syncall opa | advance opb | maybereb opa | resolve => cases hrange
  | dreset slot opa | dhreset slot opa | dbgatt slot opa | setfloc slot opb | setturbo slot on | enable slot opa
  | disable slot | catchup slot opa | idletrap slot | greg slot | fast slot dir imm =>
    exact driveCommand_outOfRange rfl (slotField_of_header rfl rfl) hlive hrange
  | csrrd slot sel opb =>
    refine (csrrd_outOfRange hlive hrange).trans ?_
    cases sel with
    | tabInt | tabFrac => simp only [Csr.legalIndex, decide_eq_true_eq, ← Nat.not_lt, ite_not]
    | err | sctl | jamAddr | sf | localClk | stopClk | lastSync | frac | authClk | bus | partOut | fDrv | fLoc => rfl
  | snapsave slot kind opa | snapload slot kind sdat | outchg slot act imm opa | setmode slot mode | fastneg slot on
  | rdPb slot opa | rdPa slot opa | rdDdrb slot opa | rdDdra slot opa | rdT1cl slot opa | rdT1ch slot opa | rdT1ll slot opa
  | rdT1lh slot opa | rdT2cl slot opa | rdT2ch slot opa | rdT2ll slot opa | rdT2lh slot opa | rdSr slot opa | rdCr slot opa
  | rdIfr slot opa | rdIer slot opa
  | wrPb slot rmw imm opa | wrPa slot rmw imm opa | wrDdrb slot rmw imm opa | wrDdra slot rmw imm opa
  | wrT1cl slot rmw imm opa | wrT1ch slot rmw imm opa | wrT1ll slot rmw imm opa | wrT1lh slot rmw imm opa
  | wrT2cl slot rmw imm opa | wrT2ch slot rmw imm opa | wrT2ll slot rmw imm opa | wrT2lh slot rmw imm opa
  | wrSr slot rmw imm opa | wrCr slot rmw imm opa | wrIfr slot rmw imm opa | wrIer slot rmw imm opa
  | signal slot line edge | pina slot imm =>
    exact partCommand_outOfRange rfl (slotField_of_header rfl rfl) hlive hrange

/-! The CSR space (20_memory.md R72). -/

/-- The host's SCTL byte: its drive bits read 0 and its enable bit 1. -/
theorem State.sctl_host (s : State) :
    (s.sctl 0).setWidth 64 = (BitVec.ofBool (s.chip 0).irq ++ (0 : BitVec 2) ++ BitVec.ofBool (s.part 0).fastneg
      ++ BitVec.ofBool (s.part 0).mode.toBool ++ (1 : BitVec 2)).setWidth 64 := by
  simp only [State.sctl, State.chip, BusMode.decide_eq_active, BEq.rfl, Bool.not_true, Bool.false_and, Bool.true_or]
  generalize (s.part 0).chip.irq = irq, (s.part 0).fastneg = fastneg, (s.part 0).mode.toBool = mode
  revert irq fastneg mode
  decide

/-- A drive's SCTL byte. -/
theorem State.sctl_drive (s : State) {d : Slot} (hd : d ≠ 0) :
    s.sctl d = BitVec.ofBool ((s.drive d).en && !(s.drive d).jam
          && decide (0 < s.params.sdiff (s.drive d).stopClk (s.drive d).localClk))
        ++ BitVec.ofBool (s.chip d).irq ++ BitVec.ofBool (s.drive d).sub ++ BitVec.ofBool (s.drive d).jam
        ++ BitVec.ofBool (s.part d).fastneg ++ BitVec.ofBool (s.part d).mode.toBool ++ BitVec.ofBool (s.drive d).turbo
        ++ BitVec.ofBool (s.drive d).en := by
  have hhost : (d == 0) = false := beq_false_of_ne hd
  simp only [State.sctl, State.chip, State.running, BusMode.decide_eq_active, hhost, Bool.not_false, Bool.true_and, Bool.false_or]

/-- CSRRD of a legal selector, index and slot puts the selector's value in `RES` (44_system_ops.md R265). -/
theorem exec_csrrd_legal {s : State} {slot : Slot} {sel : Csr} {n : BitVec 32} {v : Clock} (hlive : s.err.getLsbD 0 = false)
    (hindex : sel.legalIndex s.params n = true) (hslot : sel.legalSlot s.params slot = true)
    (hv : BitVec.ofNat 64 (s.csrValue slot sel n.toNat) = v) :
    exec (.csrrd slot sel n) s = .next { s with res := s.params.wrap v } := by
  subst hv
  have hexec : exec (.csrrd slot sel n) s = execCsrrd slot sel n s := rfl
  rw [hexec, execCsrrd, command_live hlive, hindex, hslot]
  rfl

/-- Settles O55: selector by selector, the value of `State.csrValue` is the word of R72. -/
theorem csrrdReadsEverySelector : Obligations.CsrrdReadsEverySelector := by
  intro s n hlive answers
  have hword : ∀ {w : Nat} (x : BitVec w), BitVec.ofNat 64 x.toNat = x.setWidth 64 := BitVec.ofNat_toNat 64
  have hclock : ∀ x : Clock, BitVec.ofNat 64 x.toNat = x := fun x => by rw [hword, BitVec.setWidth_eq]
  have hhost : s.params.isPart 0 = true := decide_eq_true (Nat.zero_le _)
  refine ⟨exec_csrrd_legal hlive rfl rfl (hword _), exec_csrrd_legal hlive rfl rfl (hclock _),
    exec_csrrd_legal hlive rfl rfl (hword _), exec_csrrd_legal hlive rfl rfl (hword _),
    exec_csrrd_legal hlive rfl hhost ((hword _).trans s.sctl_host),
    fun p hp => exec_csrrd_legal hlive rfl hp (hword _), fun d hd => ?_⟩
  have hsctl := s.sctl_drive (Params.isDrive_ne_zero hd)
  refine ⟨exec_csrrd_legal hlive rfl (Params.isPart_of_isDrive hd) ?_,
    exec_csrrd_legal hlive rfl hd (hword _), exec_csrrd_legal hlive rfl hd (hword _),
    exec_csrrd_legal hlive rfl hd (hclock _), exec_csrrd_legal hlive rfl hd (hclock _),
    exec_csrrd_legal hlive rfl hd (hclock _), exec_csrrd_legal hlive rfl hd (hword _),
    exec_csrrd_legal hlive rfl hd (hword _), fun hn => ?_⟩
  · rw [← hsctl]
    exact hword _
  · have hindex : decide (n.toNat ≤ s.params.horizon) = true := decide_eq_true hn
    exact ⟨exec_csrrd_legal hlive hindex hd rfl, exec_csrrd_legal hlive hindex hd rfl⟩

/-! What SNAPLOAD refuses (20_memory.md R82). -/

theorem versionTooNew_iff (major minor : Byte) :
    versionTooNew major minor = true ↔ 1 < major.toNat ∨ (major.toNat = 1 ∧ 0 < minor.toNat) := by
  simp [versionTooNew, BitVec.toNat_eq]

/-- The must-be-zero bits of a chip block (20_memory.md R81), as masks. -/
theorem chipZerosOk_iff (bs : List Byte) :
    chipZerosOk bs = true ↔ byteAt 7 bs &&& 0xE0 = 0 ∧ byteAt 8 bs &&& 0xE0 = 0 ∧ byteAt 18 bs &&& 0xF8 = 0 ∧
      byteAt 19 bs &&& 0xF0 = 0 ∧ byteAt 20 bs &&& 0xFC = 0 ∧ byteAt 21 bs &&& 0xF0 = 0 := by
  have h5 : ∀ b : Byte, b.extractLsb' 5 3 = 0 ↔ b &&& 0xE0 = 0 := fun b => extract_high_eq_zero_iff b (k := 5) (by decide)
  have h3 : ∀ b : Byte, b.extractLsb' 3 5 = 0 ↔ b &&& 0xF8 = 0 := fun b => extract_high_eq_zero_iff b (k := 3) (by decide)
  have h4 : ∀ b : Byte, b.extractLsb' 4 4 = 0 ↔ b &&& 0xF0 = 0 := fun b => extract_high_eq_zero_iff b (k := 4) (by decide)
  have h2 : ∀ b : Byte, b.extractLsb' 2 6 = 0 ↔ b &&& 0xFC = 0 := fun b => extract_high_eq_zero_iff b (k := 2) (by decide)
  simp only [chipZerosOk, Bool.and_eq_true, decide_eq_true_eq, h5, h3, h4, h2, and_assoc]

/-- The must-be-zero bits of a ProcessorContext block (20_memory.md R80; log entry 21): bits 7:1 of its flag byte, and for the
host the drive-only fields, which stand side by side from the carry to the jam address. -/
theorem pctxZerosOk_iff (P : Params) (q : Slot) (bs : List Byte) :
    (PctxBlock.ofBytes P q bs).zerosOk q = true ↔
      byteAt (3 + P.clkW.bytes + P.cpuRegsLen + P.lastopLen + 2 + 2 * P.clkW.bytes) bs &&& 0xFE = 0 ∧
      (q = 0 → ∀ k, k < 5 + 2 * P.clkW.bytes →
        byteAt (3 + P.clkW.bytes + P.cpuRegsLen + P.lastopLen + k) bs = 0) := by
  generalize hcb : P.clkW.bytes = cb
  generalize ho : 3 + cb + P.cpuRegsLen + P.lastopLen = o
  have hflags : ∀ b : Byte, b.extractLsb' 1 7 = 0 ↔ b &&& 0xFE = 0 := fun b => extract_high_eq_zero_iff b (k := 1) (by decide)
  have hbyte : ∀ off, byteAt off bs = 0 ↔ leNat (bytesAt off 1 bs) = 0 := fun off => by
    simp [leNat_bytesAt_eq_zero_iff]
  have hregion : leNat (bytesAt o (2 + cb + cb + 1 + 2) bs) = 0 ↔
      (((leNat (bytesAt o 2 bs) = 0 ∧ leNat (bytesAt (o + 2) cb bs) = 0) ∧ leNat (bytesAt (o + 2 + cb) cb bs) = 0) ∧
        byteAt (o + 2 + cb + cb) bs = 0) ∧ leNat (bytesAt (o + 2 + cb + cb + 1) 2 bs) = 0 := by
    simp only [leNat_bytesAt_add_eq_zero_iff, hbyte, Nat.add_assoc, and_assoc]
  have hlen : 5 + 2 * cb = 2 + cb + cb + 1 + 2 := by omega
  have hoff : o + 2 + 2 * cb = o + 2 + cb + cb := by omega
  rw [hlen, hoff, ← leNat_bytesAt_eq_zero_iff, hregion, ← hflags]
  simp only [PctxBlock.zerosOk, PctxBlock.ofBytes, ho, hcb, Bool.and_eq_true, Bool.or_eq_true, decide_eq_true_eq, bne_iff_ne,
    beq_iff_eq, imp_iff_not_or, ne_eq]

section Verdicts

variable {P : Params} {q : Slot} {bs : List Byte}

theorem judgeChip_malformed (h : ¬ (bs.length = 24 ∧ byteAt 0 bs = 0x43 ∧ chipZerosOk bs = true)) :
    judgeChip bs = .malformed := if_neg h

theorem judgeChip_tooNew (h : bs.length = 24 ∧ byteAt 0 bs = 0x43 ∧ chipZerosOk bs = true)
    (hnew : versionTooNew (byteAt 1 bs) (byteAt 2 bs) = true) : judgeChip bs = .tooNew :=
  (if_pos h).trans (if_pos hnew)

theorem judgePctx_malformed
    (h : ¬ (bs.length = pctxLength P q ∧ byteAt 0 bs = 0x50 ∧ (PctxBlock.ofBytes P q bs).zerosOk q = true)) :
    judgePctx P q bs = .malformed := if_neg h

theorem judgePctx_tooNew
    (h : bs.length = pctxLength P q ∧ byteAt 0 bs = 0x50 ∧ (PctxBlock.ofBytes P q bs).zerosOk q = true)
    (hnew : versionTooNew (byteAt 1 bs) (byteAt 2 bs) = true) : judgePctx P q bs = .tooNew :=
  (if_pos h).trans (if_pos hnew)

end Verdicts

/-- The verdict SNAPLOAD acts on. -/
def blockVerdict (P : Params) (q : Slot) (bs : List Byte) : BlockKind → BlockVerdict
  | .pctx => judgePctx P q bs
  | .chip => judgeChip bs

/-- What SNAPLOAD makes of a state by its verdict (44_system_ops.md R267). -/
def loadByVerdict (q : Slot) (kind : BlockKind) (bs : List Byte) (s : State) : BlockVerdict → State
  | .malformed => (s.raise .snapshotMalformed q).setRes 9
  | .tooNew => (s.raise .snapshotVersionUnsupported q).setRes 4
  | .good =>
    match kind with
    | .pctx => (loadPctx q bs s).setRes 0
    | .chip => (loadChip q bs s).setRes 0

section Snapload

variable {s : State} {q : Slot} {kind : BlockKind} {bs : List Byte}

theorem exec_snapload_live (hlive : s.err.getLsbD 0 = false) (hq : s.params.isPart q = true) :
    exec (.snapload q kind bs) s = .next (loadByVerdict q kind bs s (blockVerdict s.params q bs kind)) := by
  have hexec : exec (.snapload q kind bs) s = execSnapload q kind bs s := rfl
  rw [hexec, execSnapload, partCommand_live hlive hq]
  cases kind with
  | pctx | chip => rfl

theorem exec_snapload_malformed (hlive : s.err.getLsbD 0 = false) (hq : s.params.isPart q = true)
    (hverdict : blockVerdict s.params q bs kind = .malformed) :
    exec (.snapload q kind bs) s = .next { s with err := s.err ||| 0x200, errSlot := q, res := 9 } := by
  rw [exec_snapload_live hlive hq, hverdict]
  exact congrArg Host.Outcome.next (State.setRes_byte _ 9)

theorem exec_snapload_tooNew (hlive : s.err.getLsbD 0 = false) (hq : s.params.isPart q = true)
    (hverdict : blockVerdict s.params q bs kind = .tooNew) :
    exec (.snapload q kind bs) s = .next { s with err := s.err ||| 0x010, errSlot := q, res := 4 } := by
  rw [exec_snapload_live hlive hq, hverdict]
  exact congrArg Host.Outcome.next (State.setRes_byte _ 4)

end Snapload

/-- Settles O57: the shape each statement writes out is the model's check of the kind, read through `chipZerosOk_iff` and
`pctxZerosOk_iff`. -/
theorem snaploadRefusesBadBlocks : Obligations.SnaploadRefusesBadBlocks := by
  intro s q bs hlive hq malformed unsupported newer chipShape cb o pctxShape
  have hchip : (bs.length = 24 ∧ byteAt 0 bs = 0x43 ∧ chipZerosOk bs = true) ↔ chipShape := by rw [chipZerosOk_iff]
  have hpctx : (bs.length = pctxLength s.params q ∧ byteAt 0 bs = 0x50 ∧
      (PctxBlock.ofBytes s.params q bs).zerosOk q = true) ↔ pctxShape := by
    have hlen : pctxLength s.params q = 8 + 3 * cb + s.params.cpuRegsLen + s.params.lastopLen + s.params.intstatLen
        + s.params.ramSize.read q := by
      simp only [pctxLength, cb]
      omega
    rw [pctxZerosOk_iff, hlen]
  have hnew : newer → versionTooNew (byteAt 1 bs) (byteAt 2 bs) = true := (versionTooNew_iff _ _).mpr
  refine ⟨fun h => ?_, fun h hn => ?_, fun h => ?_, fun h hn => ?_⟩
  · exact exec_snapload_malformed hlive hq (judgeChip_malformed (mt hchip.mp h))
  · exact exec_snapload_tooNew hlive hq (judgeChip_tooNew (hchip.mpr h) (hnew hn))
  · exact exec_snapload_malformed hlive hq (judgePctx_malformed (mt hpctx.mp h))
  · exact exec_snapload_tooNew hlive hq (judgePctx_tooNew (hpctx.mpr h) (hnew hn))

end Sys2Proof.Machine

/-! The encoding of commands (spec/30_encoding.md R100 to R106, spec/opcode_table.json). One relation holds the opcode map:
which command a header's fields name, in which format. The decoder is that relation with the format's must-be-zero bits checked, the
encoder writes the fields the format reads, and the masks of the table say the same of the header's bits. -/

namespace Sys2Proof

/-! Operands of one field: read back from what was written, and written from what was read. -/

theorem ChipReg.ofIndex_index (r : ChipReg) : ChipReg.ofIndex r.index = r := by cases r <;> rfl

theorem ChipReg.index_ofIndex (x : BitVec 4) : (ChipReg.ofIndex x).index = x := by revert x; decide

theorem Csr.ofIndex_eq_some_iff {x : BitVec 4} {sel : Csr} : Csr.ofIndex x = some sel ↔ sel.index = x := by
  cases sel <;> (revert x; decide)

/-- Every number but 15 is a selector (20_memory.md R72). -/
theorem Csr.isSome_ofIndex_iff {x : BitVec 4} : (Csr.ofIndex x).isSome = true ↔ x ≠ 0xF := by revert x; decide

theorem ControlLine.ofIndex_index (l : ControlLine) : ControlLine.ofIndex l.index = l := by cases l <;> rfl

theorem BlockKind.ofIndex_index (k : BlockKind) : BlockKind.ofIndex k.index = k := by cases k <;> rfl

theorem Edge.ofBit_bit (e : Edge) : Edge.ofBit e.bit = e := by cases e <;> rfl

theorem Edge.bit_ofBit (b : BitVec 1) : (Edge.ofBit b).bit = b := by revert b; decide

theorem Direction.ofBit_bit (d : Direction) : Direction.ofBit d.bit = d := by cases d <;> rfl

theorem Direction.bit_ofBit (b : BitVec 1) : (Direction.ofBit b).bit = b := by revert b; decide

theorem BusMode.ofBool_toBool (m : BusMode) : BusMode.ofBool m.toBool = m := by cases m <;> rfl

theorem BusMode.toBool_ofBool (b : Bool) : (BusMode.ofBool b).toBool = b := by cases b <;> rfl

theorem ofBool_beq_one (b : BitVec 1) : BitVec.ofBool (b == 1) = b := by revert b; decide

theorem beq_one_ofBool (b : Bool) : (BitVec.ofBool b == 1) = b := by cases b <;> rfl

theorem boolImm_getLsbD_zero (b : Bool) : (boolImm b).getLsbD 0 = b := by cases b <;> rfl

/-! Formats (30_encoding.md R102). -/

/-- The fields a format reads, each written again from the operand it was read as, and every other field 0. -/
def Fields.rewritten (f : Fields) : Format → Fields
  | .N | .NA | .NB => .base f.op 0
  | .S | .SA | .SB => .base f.op f.slot
  | .SI => { Fields.base f.op f.slot with imm := boolImm (f.imm.getLsbD 0) }
  | .SD => { Fields.base f.op f.slot with imm := f.imm }
  | .O => { Fields.base f.op f.slot with act := f.act, imm := f.imm }
  | .F => { Fields.base f.op f.slot with dir := f.dir, imm := f.imm }
  | .R | .X => { Fields.base f.op f.slot with reg := f.reg }
  | .W => { Fields.base f.op f.slot with reg := f.reg, rmw := f.rmw, imm := f.imm }
  | .G => { Fields.base f.op f.slot with reg := (ControlLine.ofIndex f.reg).index, edge := f.edge }
  | .P => { Fields.base f.op f.slot with reg := (BlockKind.ofIndex f.reg).index }

/-- A header fits its format exactly when the format's operands are all there is in it. -/
theorem Fields.fits_iff_rewritten {f : Fields} {fmt : Format} : f.fits fmt = true ↔ f = f.rewritten fmt := by
  obtain ⟨op, slot, reg, rsv, dir, act, edge, rmw, imm⟩ := f
  have hbool : imm.extractLsb' 1 7 = 0 ↔ imm = boolImm (imm.getLsbD 0) := by revert imm; decide
  have hline : reg.extractLsb' 2 2 = 0 ↔ reg = (ControlLine.ofIndex reg).index := by revert reg; decide
  have hkind : reg.extractLsb' 1 3 = 0 ↔ reg = (BlockKind.ofIndex reg).index := by revert reg; decide
  cases fmt <;> simp only [Fields.fits, Fields.rewritten, Fields.base, Fields.mk.injEq, Bool.and_eq_true, beq_iff_eq, hbool,
    hline, hkind, true_and, and_true, and_assoc]

theorem Fields.fits_boolImm (op : BitVec 8) (slot : Slot) (b : Bool) :
    Fields.fits { Fields.base op slot with imm := boolImm b } .SI = true := by
  simp only [Fields.fits_iff_rewritten, Fields.rewritten, Fields.base, boolImm_getLsbD_zero]

theorem Fields.fits_kind (op : BitVec 8) (slot : Slot) (k : BlockKind) :
    Fields.fits { Fields.base op slot with reg := k.index } .P = true := by
  simp only [Fields.fits_iff_rewritten, Fields.rewritten, Fields.base, BlockKind.ofIndex_index]

theorem Fields.fits_line (op : BitVec 8) (slot : Slot) (l : ControlLine) (e : Edge) :
    Fields.fits { Fields.base op slot with reg := l.index, edge := e.bit } .G = true := by
  simp only [Fields.fits_iff_rewritten, Fields.rewritten, Fields.base, ControlLine.ofIndex_index]

/-! The opcode map as a relation. -/

/-- The fields name this command in this format, with the operand values of `c` (30_encoding.md R102 to R104); the bits the
format does not read are not looked at. -/
inductive Fields.Names (f : Fields) (c : Command) : Format → Instr → Prop
  | mreset (hop : f.op = 0x01) : Names f c .N .mreset
  | dreset (hop : f.op = 0x02) : Names f c .SA (.dreset f.slot c.opa)
  | dhreset (hop : f.op = 0x03) : Names f c .SA (.dhreset f.slot c.opa)
  | dbgatt (hop : f.op = 0x04) : Names f c .SA (.dbgatt f.slot c.opa)
  | clrerr (hop : f.op = 0x05) : Names f c .N .clrerr
  | csrrd {sel : Csr} (hop : f.op = 0x06) (hsel : Csr.ofIndex f.reg = some sel) : Names f c .X (.csrrd f.slot sel c.opb)
  | snapsave {kind : BlockKind} (hop : f.op = 0x07) (hkind : BlockKind.ofIndex f.reg = kind) :
    Names f c .P (.snapsave f.slot kind c.opa)
  | snapload {kind : BlockKind} (hop : f.op = 0x08) (hkind : BlockKind.ofIndex f.reg = kind) :
    Names f c .P (.snapload f.slot kind c.sdat)
  | setfdrv (hop : f.op = 0x10) : Names f c .NB (.setfdrv c.opb)
  | setfloc (hop : f.op = 0x11) : Names f c .SB (.setfloc f.slot c.opb)
  | setturbo {on : Bool} (hop : f.op = 0x12) (hon : f.imm.getLsbD 0 = on) : Names f c .SI (.setturbo f.slot on)
  | enable (hop : f.op = 0x13) : Names f c .SA (.enable f.slot c.opa)
  | disable (hop : f.op = 0x14) : Names f c .S (.disable f.slot)
  | catchup (hop : f.op = 0x15) : Names f c .SA (.catchup f.slot c.opa)
  | syncall (hop : f.op = 0x16) : Names f c .NA (.syncall c.opa)
  | idletrap (hop : f.op = 0x17) : Names f c .S (.idletrap f.slot)
  | greg (hop : f.op = 0x20) : Names f c .S (.greg f.slot)
  | advance (hop : f.op = 0x21) : Names f c .NB (.advance c.opb)
  | maybereb (hop : f.op = 0x22) : Names f c .NA (.maybereb c.opa)
  | outchg {act : Bool} (hop : f.op = 0x30) (hact : (f.act == 1) = act) : Names f c .O (.outchg f.slot act f.imm c.opa)
  | resolve (hop : f.op = 0x31) : Names f c .N .resolve
  | setmode {mode : BusMode} (hop : f.op = 0x32) (hmode : BusMode.ofBool (f.imm.getLsbD 0) = mode) :
    Names f c .SI (.setmode f.slot mode)
  | fastneg {on : Bool} (hop : f.op = 0x33) (hon : f.imm.getLsbD 0 = on) : Names f c .SI (.fastneg f.slot on)
  | fast {dir : Direction} (hop : f.op = 0x34) (hdir : Direction.ofBit f.dir = dir) : Names f c .F (.fast f.slot dir f.imm)
  | rd {r : ChipReg} (hop : f.op = 0x40) (hreg : ChipReg.ofIndex f.reg = r) : Names f c .R (Instr.rd r f.slot c.opa)
  | wr {r : ChipReg} {rmw : Bool} (hop : f.op = 0x41) (hreg : ChipReg.ofIndex f.reg = r) (hrmw : (f.rmw == 1) = rmw) :
    Names f c .W (Instr.wr r f.slot rmw f.imm c.opa)
  | signal {line : ControlLine} {edge : Edge} (hop : f.op = 0x42) (hline : ControlLine.ofIndex f.reg = line)
    (hedge : Edge.ofBit f.edge = edge) : Names f c .G (.signal f.slot line edge)
  | pina (hop : f.op = 0x43) : Names f c .SD (.pina f.slot f.imm)

/-- The decoder is the opcode map with the format's must-be-zero bits checked (30_encoding.md R105 steps 1 to 4). -/
theorem decode_eq_ok_iff {c : Command} {i : Instr} : decode c = .ok i ↔
    ∃ fmt, (Fields.ofHeader c.header).Names c fmt i ∧ (Fields.ofHeader c.header).fits fmt = true := by
  constructor
  · intro h
    simp only [decode] at h
    split at h
    case h_6 hop =>
      split at h
      case h_1 sel hsel =>
        obtain ⟨hfits, rfl⟩ := Fields.spell_eq_ok.mp h
        exact ⟨_, .csrrd (BitVec.eq_of_toNat_eq hop) hsel, hfits⟩
      case h_2 => cases h
    case h_29 => cases h
    all_goals
      rename_i hop
      obtain ⟨hfits, rfl⟩ := Fields.spell_eq_ok.mp h
      refine ⟨_, ?_, hfits⟩
      constructor
      · exact BitVec.eq_of_toNat_eq hop
      all_goals rfl
  · rintro ⟨fmt, hnames, hfits⟩
    -- At each op the decoder's match is down to one arm, which spells the command that is named.
    have hspell : ∀ i, (Fields.ofHeader c.header).spell fmt i = .ok i := fun i => Fields.spell_eq_ok.mpr ⟨hfits, rfl⟩
    cases hnames <;> simp_all [decode]

/-- A command written with these fields decodes to the command they name. -/
theorem decode_command {f : Fields} {opa : Clock} {opb : BitVec 32} {sdat : List Byte} {fmt : Format} {i : Instr}
    (hnames : f.Names (f.command opa opb sdat) fmt i) (hfits : f.fits fmt = true) :
    decode (f.command opa opb sdat) = .ok i := by
  refine decode_eq_ok_iff.mpr ⟨fmt, ?_⟩
  have hfields : Fields.ofHeader (f.command opa opb sdat).header = f := f.ofHeader_toHeader
  rw [hfields]
  exact ⟨hnames, hfits⟩

theorem decode_encodeRd (r : ChipReg) (slot : Slot) (opa : Clock) : decode (encodeRd r slot opa) = .ok (Instr.rd r slot opa) :=
  decode_command (.rd rfl r.ofIndex_index) rfl

theorem decode_encodeWr (r : ChipReg) (slot : Slot) (rmw : Bool) (imm : Byte) (opa : Clock) :
    decode (encodeWr r slot rmw imm opa) = .ok (Instr.wr r slot rmw imm opa) :=
  decode_command (.wr rfl r.ofIndex_index (beq_one_ofBool rmw)) rfl

/-- Settles O1: the fields an encoding is written with name its command, and fit the command's format. -/
theorem decodeOfEncodeIsTheInstruction : Obligations.DecodeOfEncodeIsTheInstruction := by
  intro i
  cases i with
  | mreset => exact decode_command (.mreset rfl) rfl
  | dreset slot opa => exact decode_command (.dreset rfl) rfl
  | dhreset slot opa => exact decode_command (.dhreset rfl) rfl
  | dbgatt slot opa => exact decode_command (.dbgatt rfl) rfl
  | clrerr => exact decode_command (.clrerr rfl) rfl
  | csrrd slot sel opb => exact decode_command (.csrrd rfl (Csr.ofIndex_eq_some_iff.mpr rfl)) rfl
  | snapsave slot kind opa => exact decode_command (.snapsave rfl kind.ofIndex_index) (Fields.fits_kind _ slot kind)
  | snapload slot kind sdat => exact decode_command (.snapload rfl kind.ofIndex_index) (Fields.fits_kind _ slot kind)
  | setfdrv opb => exact decode_command (.setfdrv rfl) rfl
  | setfloc slot opb => exact decode_command (.setfloc rfl) rfl
  | setturbo slot on => exact decode_command (.setturbo rfl (boolImm_getLsbD_zero on)) (Fields.fits_boolImm _ slot on)
  | enable slot opa => exact decode_command (.enable rfl) rfl
  | disable slot => exact decode_command (.disable rfl) rfl
  | catchup slot opa => exact decode_command (.catchup rfl) rfl
  | syncall opa => exact decode_command (.syncall rfl) rfl
  | idletrap slot => exact decode_command (.idletrap rfl) rfl
  | greg slot => exact decode_command (.greg rfl) rfl
  | advance opb => exact decode_command (.advance rfl) rfl
  | maybereb opa => exact decode_command (.maybereb rfl) rfl
  | outchg slot act imm opa => exact decode_command (.outchg rfl (beq_one_ofBool act)) rfl
  | resolve => exact decode_command (.resolve rfl) rfl
  | setmode slot mode =>
    refine decode_command (.setmode rfl ?_) (Fields.fits_boolImm _ slot mode.toBool)
    exact (congrArg BusMode.ofBool (boolImm_getLsbD_zero mode.toBool)).trans mode.ofBool_toBool
  | fastneg slot on => exact decode_command (.fastneg rfl (boolImm_getLsbD_zero on)) (Fields.fits_boolImm _ slot on)
  | fast slot dir imm => exact decode_command (.fast rfl dir.ofBit_bit) rfl
  | rdPb slot opa | rdPa slot opa | rdDdrb slot opa | rdDdra slot opa | rdT1cl slot opa | rdT1ch slot opa | rdT1ll slot opa
  | rdT1lh slot opa | rdT2cl slot opa | rdT2ch slot opa | rdT2ll slot opa | rdT2lh slot opa | rdSr slot opa | rdCr slot opa
  | rdIfr slot opa | rdIer slot opa => exact decode_encodeRd _ slot opa
  | wrPb slot rmw imm opa | wrPa slot rmw imm opa | wrDdrb slot rmw imm opa | wrDdra slot rmw imm opa
  | wrT1cl slot rmw imm opa | wrT1ch slot rmw imm opa | wrT1ll slot rmw imm opa | wrT1lh slot rmw imm opa
  | wrT2cl slot rmw imm opa | wrT2ch slot rmw imm opa | wrT2ll slot rmw imm opa | wrT2lh slot rmw imm opa
  | wrSr slot rmw imm opa | wrCr slot rmw imm opa | wrIfr slot rmw imm opa | wrIer slot rmw imm opa =>
    exact decode_encodeWr _ slot rmw imm opa
  | signal slot line edge =>
    exact decode_command (.signal rfl line.ofIndex_index edge.ofBit_bit) (Fields.fits_line _ slot line edge)
  | pina slot imm => exact decode_command (.pina rfl) rfl

theorem encode_rd (r : ChipReg) (slot : Slot) (opa : Clock) : encode (Instr.rd r slot opa) = encodeRd r slot opa := by
  cases r <;> rfl

theorem encode_wr (r : ChipReg) (slot : Slot) (rmw : Bool) (imm : Byte) (opa : Clock) :
    encode (Instr.wr r slot rmw imm opa) = encodeWr r slot rmw imm opa := by
  cases r <;> rfl

/-- The encoder writes what the format reads (30_encoding.md R102, R104). -/
theorem Fields.Names.encode_header {f : Fields} {c : Command} {fmt : Format} {i : Instr} (h : f.Names c fmt i) :
    (encode i).header = (f.rewritten fmt).toHeader := by
  cases h with
  | csrrd hop hsel => simp only [encode, Fields.command, Fields.rewritten, hop, Csr.ofIndex_eq_some_iff.mp hsel]
  | outchg hop hact => simp only [encode, Fields.command, Fields.rewritten, hop, ← hact, ofBool_beq_one]
  | setmode hop hmode => simp only [encode, Fields.command, Fields.rewritten, hop, ← hmode, BusMode.toBool_ofBool]
  | fast hop hdir => simp only [encode, Fields.command, Fields.rewritten, hop, ← hdir, Direction.bit_ofBit]
  | rd hop hreg =>
    simp only [encode_rd, encodeRd, Fields.command, Fields.rewritten, hop, ← hreg, ChipReg.index_ofIndex]
  | wr hop hreg hrmw =>
    simp only [encode_wr, encodeWr, Fields.command, Fields.rewritten, hop, ← hreg, ← hrmw, ChipReg.index_ofIndex,
      ofBool_beq_one]
  | signal hop hline hedge => simp only [encode, Fields.command, Fields.rewritten, hop, ← hline, ← hedge, Edge.bit_ofBit]
  | snapsave hop hoperand | snapload hop hoperand | setturbo hop hoperand | fastneg hop hoperand =>
    simp only [encode, Fields.command, Fields.rewritten, hop, ← hoperand]
  | mreset hop | dreset hop | dhreset hop | dbgatt hop | clrerr hop | setfdrv hop | setfloc hop | enable hop | disable hop
  | catchup hop | syncall hop | idletrap hop | greg hop | advance hop | maybereb hop | resolve hop | pina hop =>
    simp only [encode, Fields.command, Fields.rewritten, hop]

/-- Settles O2: the encoding is what the format reads, and a header that fits holds nothing else. -/
theorem encodeOfDecodeIsTheHeader : Obligations.EncodeOfDecodeIsTheHeader := by
  intro c i h
  obtain ⟨fmt, hnames, hfits⟩ := decode_eq_ok_iff.mp h
  rw [hnames.encode_header, ← Fields.fits_iff_rewritten.mp hfits, Fields.toHeader_ofHeader]

/-! The rows of the opcode map (30_encoding.md R104). -/

/-- The bits of a header that a row of this format fixes. -/
def Format.mask : Format → Fields
  | .N | .NA | .NB => ⟨0xFF, 0xF, 0xF, 0xF, 1, 1, 1, 1, 0xFF⟩
  | .S | .SA | .SB | .R => ⟨0xFF, 0, 0xF, 0xF, 1, 1, 1, 1, 0xFF⟩
  | .SI => ⟨0xFF, 0, 0xF, 0xF, 1, 1, 1, 1, 0xFE⟩
  | .SD => ⟨0xFF, 0, 0xF, 0xF, 1, 1, 1, 1, 0⟩
  | .O => ⟨0xFF, 0, 0xF, 0xF, 1, 0, 1, 1, 0⟩
  | .F => ⟨0xFF, 0, 0xF, 0xF, 0, 1, 1, 1, 0⟩
  | .X => ⟨0xFF, 0, 0, 0xF, 1, 1, 1, 1, 0xFF⟩
  | .W => ⟨0xFF, 0, 0xF, 0xF, 1, 1, 1, 0, 0⟩
  | .G => ⟨0xFF, 0, 0b1100, 0xF, 1, 1, 0, 1, 0xFF⟩
  | .P => ⟨0xFF, 0, 0b1110, 0xF, 1, 1, 1, 1, 0xFF⟩

/-- The fields a row fixes to something other than 0: the op, and the register of the chip accesses. -/
def Fields.rowKey (f : Fields) : Format → Fields
  | .R | .W => { Fields.base f.op 0 with reg := f.reg }
  | .N | .NA | .NB | .S | .SA | .SB | .SI | .SD | .O | .F | .G | .X | .P => .base f.op 0

theorem Instr.row_rd (r : ChipReg) (slot : Slot) (opa : Clock) : (Instr.rd r slot opa).row =
    (Fields.toHeader { Fields.base 0x40 0 with reg := r.index }, 0xFF0FFFFF) := by cases r <;> rfl

theorem Instr.row_wr (r : ChipReg) (slot : Slot) (rmw : Bool) (imm : Byte) (opa : Clock) : (Instr.wr r slot rmw imm opa).row =
    (Fields.toHeader { Fields.base 0x41 0 with reg := r.index }, 0xFF0FFE00) := by cases r <;> rfl

/-- The row of a command named by a header. -/
theorem Fields.Names.row_eq {f : Fields} {c : Command} {fmt : Format} {i : Instr} (h : f.Names c fmt i) :
    i.row = ((f.rowKey fmt).toHeader, fmt.mask.toHeader) := by
  cases h with
  | rd hop hreg => rw [Instr.row_rd, ← hreg, ChipReg.index_ofIndex, Fields.rowKey, hop]; rfl
  | wr hop hreg hrmw => rw [Instr.row_wr, ← hreg, ChipReg.index_ofIndex, Fields.rowKey, hop]; rfl
  | _ hop => rw [Fields.rowKey, hop]; rfl

/-- The bits two headers share, field by field. -/
def Fields.and (f g : Fields) : Fields :=
  ⟨f.op &&& g.op, f.slot &&& g.slot, f.reg &&& g.reg, f.rsv &&& g.rsv, f.dir &&& g.dir, f.act &&& g.act, f.edge &&& g.edge,
    f.rmw &&& g.rmw, f.imm &&& g.imm⟩

theorem Fields.toHeader_and (f g : Fields) : (f.and g).toHeader = f.toHeader &&& g.toHeader := by
  simp only [Fields.toHeader, Fields.and, ← BitVec.and_append]

theorem Fields.toHeader_inj {f g : Fields} : f.toHeader = g.toHeader ↔ f = g :=
  ⟨fun h => by rw [← f.ofHeader_toHeader, h, g.ofHeader_toHeader], congrArg _⟩

/-- A header fits its format exactly when the bits the row fixes are the row's (30_encoding.md R102 against R104). -/
theorem Fields.fits_iff_masked {f : Fields} {fmt : Format} : f.fits fmt = true ↔ f.and fmt.mask = f.rowKey fmt := by
  obtain ⟨op, slot, reg, rsv, dir, act, edge, rmw, imm⟩ := f
  have hones : ∀ {w : Nat} (x : BitVec w), x &&& BitVec.allOnes w = x := fun _ => BitVec.and_allOnes
  have hzero : ∀ {w : Nat} (x : BitVec w), x &&& 0 = 0 := fun _ => BitVec.and_zero
  have hbyte : ∀ x : Byte, x &&& 0xFF = x := hones
  have hnibble : ∀ x : BitVec 4, x &&& 0xF = x := hones
  have hbit : ∀ x : BitVec 1, x &&& 1 = x := hones
  have hbool : imm &&& 0xFE = 0 ↔ imm.extractLsb' 1 7 = 0 := (extract_high_eq_zero_iff imm (k := 1) (by decide)).symm
  have hline : reg &&& 0b1100 = 0 ↔ reg.extractLsb' 2 2 = 0 := by revert reg; decide
  have hkind : reg &&& 0b1110 = 0 ↔ reg.extractLsb' 1 3 = 0 := by revert reg; decide
  cases fmt <;> simp only [Fields.fits, Fields.and, Format.mask, Fields.rowKey, Fields.base, Fields.mk.injEq, Bool.and_eq_true,
    beq_iff_eq, hzero, hbyte, hnibble, hbit, hbool, hline, hkind, true_and, and_true, and_assoc]

/-- The words of a row have the row's key. -/
theorem Fields.rowKey_eq_of_masked {f g : Fields} {fmt : Format} (h : f.and fmt.mask = g.rowKey fmt) :
    f.rowKey fmt = g.rowKey fmt := by
  have hop : f.op &&& BitVec.allOnes 8 = (g.rowKey fmt).op := by
    rw [← h]
    cases fmt <;> rfl
  have hreg : fmt = .R ∨ fmt = .W → f.reg &&& BitVec.allOnes 4 = (g.rowKey fmt).reg := by
    rw [← h]
    rintro (rfl | rfl) <;> rfl
  rw [BitVec.and_allOnes] at hop hreg
  cases fmt <;> simp_all [Fields.rowKey, Fields.base]

/-- The words of the row of a command, by their fields. -/
theorem Fields.Names.spelledBy_iff {f : Fields} {c : Command} {fmt : Format} {i : Instr} (h : f.Names c fmt i)
    (word : BitVec 32) : i.spelledBy word ↔ (Fields.ofHeader word).and fmt.mask = f.rowKey fmt := by
  rw [Instr.spelledBy, h.row_eq, ← Fields.toHeader_inj, Fields.toHeader_and, Fields.toHeader_ofHeader]

theorem Fields.rowKey_op (f : Fields) (fmt : Format) : (f.rowKey fmt).op = f.op := by cases fmt <;> rfl

/-- Every header with the op of a command names a command of the same format, unless it is CSRRD's with the reserved
selector. -/
theorem Fields.Names.of_op {f g : Fields} {d : Command} {fmt : Format} {i : Instr} (h : g.Names d fmt i) (c : Command)
    (hfg : f.op = g.op) (hsel : ¬ (f.op = 0x06 ∧ f.reg = 0xF)) : ∃ j, f.Names c fmt j := by
  cases h with
  | mreset hop => exact ⟨_, .mreset (hfg.trans hop)⟩
  | dreset hop => exact ⟨_, .dreset (hfg.trans hop)⟩
  | dhreset hop => exact ⟨_, .dhreset (hfg.trans hop)⟩
  | dbgatt hop => exact ⟨_, .dbgatt (hfg.trans hop)⟩
  | clrerr hop => exact ⟨_, .clrerr (hfg.trans hop)⟩
  | csrrd hop _ =>
    have hop' := hfg.trans hop
    obtain ⟨sel, hfound⟩ := Option.isSome_iff_exists.mp (Csr.isSome_ofIndex_iff.mpr fun hreg => hsel ⟨hop', hreg⟩)
    exact ⟨_, .csrrd hop' hfound⟩
  | snapsave hop _ => exact ⟨_, .snapsave (hfg.trans hop) rfl⟩
  | snapload hop _ => exact ⟨_, .snapload (hfg.trans hop) rfl⟩
  | setfdrv hop => exact ⟨_, .setfdrv (hfg.trans hop)⟩
  | setfloc hop => exact ⟨_, .setfloc (hfg.trans hop)⟩
  | setturbo hop _ => exact ⟨_, .setturbo (hfg.trans hop) rfl⟩
  | enable hop => exact ⟨_, .enable (hfg.trans hop)⟩
  | disable hop => exact ⟨_, .disable (hfg.trans hop)⟩
  | catchup hop => exact ⟨_, .catchup (hfg.trans hop)⟩
  | syncall hop => exact ⟨_, .syncall (hfg.trans hop)⟩
  | idletrap hop => exact ⟨_, .idletrap (hfg.trans hop)⟩
  | greg hop => exact ⟨_, .greg (hfg.trans hop)⟩
  | advance hop => exact ⟨_, .advance (hfg.trans hop)⟩
  | maybereb hop => exact ⟨_, .maybereb (hfg.trans hop)⟩
  | outchg hop _ => exact ⟨_, .outchg (hfg.trans hop) rfl⟩
  | resolve hop => exact ⟨_, .resolve (hfg.trans hop)⟩
  | setmode hop _ => exact ⟨_, .setmode (hfg.trans hop) rfl⟩
  | fastneg hop _ => exact ⟨_, .fastneg (hfg.trans hop) rfl⟩
  | fast hop _ => exact ⟨_, .fast (hfg.trans hop) rfl⟩
  | rd hop _ => exact ⟨_, .rd (hfg.trans hop) rfl⟩
  | wr hop _ _ => exact ⟨_, .wr (hfg.trans hop) rfl rfl⟩
  | signal hop _ _ => exact ⟨_, .signal (hfg.trans hop) rfl rfl⟩
  | pina hop => exact ⟨_, .pina (hfg.trans hop)⟩

/-- CSRRD has no selector 15 (20_memory.md R72, 30_encoding.md R105 step 4). -/
theorem decode_reservedSelector {c : Command} (hop : (Fields.ofHeader c.header).op = 0x06)
    (hreg : (Fields.ofHeader c.header).reg = 0xF) : decode c = .error .reservedSelector := by
  simp only [decode, hop, hreg]
  rfl

/-- Settles O3: the row of a command fixes the op, and the bits it masks are the must-be-zero bits of the format and, for chip
accesses, the register. -/
theorem decoderFollowsTheOpcodeMap : Obligations.DecoderFollowsTheOpcodeMap := by
  intro c i
  constructor
  · rintro ⟨j, hdecode, hrow⟩
    obtain ⟨fmt, hnames, hfits⟩ := decode_eq_ok_iff.mp hdecode
    refine ⟨?_, fun ⟨hop, hreg⟩ => ?_⟩
    · rw [Instr.spelledBy, ← hrow]
      exact (hnames.spelledBy_iff _).mpr (Fields.fits_iff_masked.mp hfits)
    · rw [decode_reservedSelector hop hreg] at hdecode
      cases hdecode
  · rintro ⟨hspelled, hsel⟩
    obtain ⟨fmt, hi, _⟩ := decode_eq_ok_iff.mp (decodeOfEncodeIsTheInstruction i)
    have hmasked := (hi.spelledBy_iff _).mp hspelled
    have hkey := Fields.rowKey_eq_of_masked hmasked
    have hop := congrArg Fields.op hkey
    rw [Fields.rowKey_op, Fields.rowKey_op] at hop
    obtain ⟨j, hj⟩ := hi.of_op c hop hsel
    refine ⟨j, decode_eq_ok_iff.mpr ⟨fmt, hj, Fields.fits_iff_masked.mpr (hmasked.trans hkey.symm)⟩, ?_⟩
    rw [hj.row_eq, hi.row_eq, hkey]

/-- Settles O4: each word by running the decoder on it. -/
theorem writtenOutWordsDecode : Obligations.WrittenOutWordsDecode := by
  exact ⟨rfl, rfl, rfl, rfl, rfl, rfl, rfl, rfl, rfl, rfl, rfl, rfl, rfl, rfl, rfl, rfl, rfl, rfl⟩

end Sys2Proof

/-! `RES` (spec/30_encoding.md R100): only a command whose rule says that it returns a value writes it. The work nested in a
catch-up never does, and each command that returns nothing is put together from operations that leave it alone. -/

namespace Sys2Proof.Machine

/-! Catch-up and what nests in it. -/

/-- No step of a catch-up touches `RES` (40_clock_converter.md R137 to R145). -/
theorem res_inv (T : Clock) (s0 : State) : CatchInv T (· ≠ 0) (fun _ => True) (fun st => st.res = s0.res) where
  nonhost _ h := h
  drives _ _ _ hd := Params.isDrive_ne_zero ((Params.mem_driveSlots _ _).mp hd)
  enter _ _ h _ _ _ _ := ⟨trivial, h⟩
  ask _ _ _ _ h := h
  jam _ _ _ _ h _ := h
  ticks _ _ _ _ h := h
  read _ _ _ _ _ h := h
  hear _ _ _ _ h := h
  store _ _ _ _ _ h := h
  signal _ _ _ _ _ h := h
  clamp _ _ _ h _ := h
  notify _ _ _ _ h := (State.resolve_res _).trans h

section Effects

variable {T : Clock} {st : State} {s : Slot}

theorem catchUp_res (hs : s ≠ 0) : (catchUp s T st).res = st.res :=
  (catchUp_keeps (res_inv T st) s st hs rfl).1

theorem catchAll_res : (catchAll catchUp T st).res = st.res :=
  (catchAll_keeps (res_inv T st) (catchUp_keeps (res_inv T st)) st rfl).1

theorem outChg_res {byte : Byte} {act : Bool} : (outChg catchUp s byte act T st).res = st.res :=
  (outChg_keeps (res_inv T st) (catchUp_keeps (res_inv T st)) trivial byte act st rfl).1

theorem chipStore_res {r : ChipReg} {b : Byte} {rmw : Bool} : (chipStore catchUp s r b rmw T st).res = st.res :=
  (chipStore_keeps (res_inv T st) (catchUp_keeps (res_inv T st)) trivial r b rmw st rfl).1

theorem idleTrap_res : (idleTrap s st).res = st.res :=
  (idleTrap_keeps (res_inv 0 st) trivial st rfl).1

theorem driveReset_res {kind : ResetKind} {now : Clock} : (driveReset kind s now st).res = st.res :=
  State.resolve_res _

end Effects

/-! Commands. -/

section Commands

variable {st t : State} {s : Slot} {f : State → State}

theorem command_res (h : command st f = .next t) (hf : (f st).res = st.res) : t.res = st.res := by
  rcases command_cases h with ⟨_, rfl⟩ | ⟨_, rfl⟩
  · rfl
  · exact hf

theorem driveCommand_res (h : driveCommand st s f = .next t) (hf : st.params.isDrive s = true → (f st).res = st.res) :
    t.res = st.res := by
  rcases driveCommand_cases h with ⟨_, rfl⟩ | ⟨_, _, rfl⟩ | ⟨_, hs, rfl⟩
  · rfl
  · rfl
  · exact hf hs

theorem partCommand_res (h : partCommand st s f = .next t) (hf : (f st).res = st.res) : t.res = st.res := by
  rcases partCommand_cases h with ⟨_, rfl⟩ | ⟨_, _, rfl⟩ | ⟨_, _, rfl⟩
  · rfl
  · rfl
  · exact hf

theorem storeCommand_res {r : ChipReg} {rmw : Bool} {imm : Byte} {opa : Clock}
    (h : storeCommand r s rmw imm opa st = .next t) : t.res = st.res := partCommand_res h chipStore_res

theorem execDreset_res {opa : Clock} (h : execDreset s opa st = .next t) : t.res = st.res :=
  driveCommand_res h fun _ => driveReset_res

theorem execDhreset_res {opa : Clock} (h : execDhreset s opa st = .next t) : t.res = st.res :=
  driveCommand_res h fun _ => driveReset_res

theorem execDbgatt_res {opa : Clock} (h : execDbgatt s opa st = .next t) : t.res = st.res := by
  refine driveCommand_res h fun _ => ?_
  split <;> rfl

theorem execClrerr_res (h : execClrerr st = .next t) : t.res = st.res := command_res h rfl

theorem execSetfdrv_res {opb : BitVec 32} (h : execSetfdrv opb st = .next t) : t.res = st.res := by
  refine command_res h ?_
  split
  · obtain ⟨hframe, _⟩ := foldl_updDrive_spec (fun d => { d with sf := (d.sfFor opb).getD 0 })
      st.params.driveSlots_nodup { st with fDrive := opb }
    rw [hframe]
  · rfl

theorem execSetfloc_res {opb : BitVec 32} (h : execSetfloc s opb st = .next t) : t.res = st.res := by
  refine driveCommand_res h fun _ => ?_
  split <;> rfl

theorem execSetturbo_res {on : Bool} (h : execSetturbo s on st = .next t) : t.res = st.res := by
  refine driveCommand_res h fun _ => ?_
  split
  · rfl
  · split <;> rfl

theorem execEnable_res {opa : Clock} (h : execEnable s opa st = .next t) : t.res = st.res := by
  refine driveCommand_res h fun _ => ?_
  dsimp only
  split
  · rfl
  · exact State.resolve_res _

theorem execDisable_res (h : execDisable s st = .next t) : t.res = st.res := by
  refine driveCommand_res h fun _ => ?_
  split
  · exact State.resolve_res _
  · rfl

theorem execCatchup_res {opa : Clock} (h : execCatchup s opa st = .next t) : t.res = st.res :=
  driveCommand_res h fun hs => catchUp_res (Params.isDrive_ne_zero hs)

theorem execSyncall_res {opa : Clock} (h : execSyncall opa st = .next t) : t.res = st.res := command_res h catchAll_res

theorem execIdletrap_res (h : execIdletrap s st = .next t) : t.res = st.res := driveCommand_res h fun _ => idleTrap_res

theorem execGreg_res (h : execGreg s st = .next t) : t.res = st.res := driveCommand_res h fun _ => rfl

theorem execAdvance_res {opb : BitVec 32} (h : execAdvance opb st = .next t) : t.res = st.res := command_res h rfl

theorem execOutchg_res {act : Bool} {imm : Byte} {opa : Clock} (h : execOutchg s act imm opa st = .next t) :
    t.res = st.res := partCommand_res h outChg_res

theorem execResolve_res (h : execResolve st = .next t) : t.res = st.res := command_res h st.resolve_res

theorem execSetmode_res {mode : BusMode} (h : execSetmode s mode st = .next t) : t.res = st.res :=
  partCommand_res h (State.resolve_res _)

theorem execFastneg_res {on : Bool} (h : execFastneg s on st = .next t) : t.res = st.res := partCommand_res h rfl

theorem execSignal_res {line : ControlLine} {edge : Edge} (h : execSignal s line edge st = .next t) : t.res = st.res :=
  partCommand_res h rfl

theorem execPina_res {imm : Byte} (h : execPina s imm st = .next t) : t.res = st.res := partCommand_res h rfl

theorem execFast_res {dir : Direction} {imm : Byte} (h : execFast s dir imm st = .next t) : t.res = st.res := by
  refine driveCommand_res h fun _ => ?_
  split <;> rfl

end Commands

/-- Settles O15: command by command; the work nested in one is covered by `res_inv`. -/
theorem onlyValueReturningCommandsWriteRes : Obligations.OnlyValueReturningCommandsWriteRes := by
  intro i s t hi h
  cases i with
  | mreset | csrrd slot sel opb | snapsave slot kind opa | snapload slot kind sdat | maybereb opa
  | rdPb slot opa | rdPa slot opa | rdDdrb slot opa | rdDdra slot opa | rdT1cl slot opa | rdT1ch slot opa | rdT1ll slot opa
  | rdT1lh slot opa | rdT2cl slot opa | rdT2ch slot opa | rdT2ll slot opa | rdT2lh slot opa | rdSr slot opa | rdCr slot opa
  | rdIfr slot opa | rdIer slot opa => cases hi
  | dreset slot opa => exact execDreset_res h
  | dhreset slot opa => exact execDhreset_res h
  | dbgatt slot opa => exact execDbgatt_res h
  | clrerr => exact execClrerr_res h
  | setfdrv opb => exact execSetfdrv_res h
  | setfloc slot opb => exact execSetfloc_res h
  | setturbo slot on => exact execSetturbo_res h
  | enable slot opa => exact execEnable_res h
  | disable slot => exact execDisable_res h
  | catchup slot opa => exact execCatchup_res h
  | syncall opa => exact execSyncall_res h
  | idletrap slot => exact execIdletrap_res h
  | greg slot => exact execGreg_res h
  | advance opb => exact execAdvance_res h
  | outchg slot act imm opa => exact execOutchg_res h
  | resolve => exact execResolve_res h
  | setmode slot mode => exact execSetmode_res h
  | fastneg slot on => exact execFastneg_res h
  | fast slot dir imm => exact execFast_res h
  | wrPb slot rmw imm opa | wrPa slot rmw imm opa | wrDdrb slot rmw imm opa | wrDdra slot rmw imm opa
  | wrT1cl slot rmw imm opa | wrT1ch slot rmw imm opa | wrT1ll slot rmw imm opa | wrT1lh slot rmw imm opa
  | wrT2cl slot rmw imm opa | wrT2ch slot rmw imm opa | wrT2ll slot rmw imm opa | wrT2lh slot rmw imm opa
  | wrSr slot rmw imm opa | wrCr slot rmw imm opa | wrIfr slot rmw imm opa | wrIer slot rmw imm opa =>
    exact storeCommand_res h
  | signal slot line edge => exact execSignal_res h
  | pina slot imm => exact execPina_res h

end Sys2Proof.Machine

/-! Clock arithmetic and the conversion (spec/00_scope.md R10; spec/40_clock_converter.md R130, R137, R138): `sdiff` is the
representative of a difference that lies within half the clock's range, and the conversion is one exact sum cut to the width of
the stop value and to 16 bits of carry. -/

namespace Sys2Proof

/-- `sdiff` is the difference up to a multiple of 2^CLK_W, and the one within half the range (00_scope.md R10). -/
theorem Params.sdiff_spec (P : Params) (a b : Clock) :
    ∃ z : Int, P.sdiff a b = a.toNat - b.toNat + z * 2 ^ P.clkW.bits ∧
      -2 ^ (P.clkW.bits - 1) ≤ P.sdiff a b ∧ P.sdiff a b < 2 ^ (P.clkW.bits - 1) := by
  have ha := a.isLt
  have hb := b.isLt
  unfold Params.sdiff
  cases P.clkW with
  | w32 =>
    simp only [ClockWidth.bits, BitVec.toInt_eq_toNat_bmod, BitVec.toNat_setWidth, BitVec.toNat_sub, Int.bmod_def]
    refine ⟨_, (Int.sub_eq_iff_eq_add'.mp (Int.ediv_mul_cancel (b := 2 ^ 32) ?_).symm), ?_, ?_⟩ <;> split <;> omega
  | w64 =>
    simp only [ClockWidth.bits, BitVec.toInt_eq_toNat_bmod, BitVec.toNat_sub, Int.bmod_def]
    refine ⟨_, (Int.sub_eq_iff_eq_add'.mp (Int.ediv_mul_cancel (b := 2 ^ 64) ?_).symm), ?_, ?_⟩ <;> split <;> omega

/-- A number that is the difference up to a multiple of 2^CLK_W and lies within half the range is `sdiff`. -/
theorem Params.sdiff_unique {P : Params} {a b : Clock} {n z : Int} (h : n = a.toNat - b.toNat + z * 2 ^ P.clkW.bits)
    (hlow : -2 ^ (P.clkW.bits - 1) ≤ n) (hhigh : n < 2 ^ (P.clkW.bits - 1)) : P.sdiff a b = n := by
  obtain ⟨y, hy, hylow, hyhigh⟩ := P.sdiff_spec a b
  cases hw : P.clkW <;> simp only [hw, ClockWidth.bits] at * <;> omega

/-- Counting `n` ticks onto a clock (00_scope.md R10). -/
theorem Params.addClk_toNat (P : Params) (a : Clock) (n : Nat) :
    (P.addClk a (BitVec.ofNat 64 n)).toNat = (a.toNat + n) % 2 ^ P.clkW.bits := by
  rw [Params.addClk, Params.wrap_toNat, BitVec.toNat_add, BitVec.toNat_ofNat]
  cases P.clkW <;> simp only [ClockWidth.bits] <;> omega

/-- Counting ticks onto the later operand lowers a difference by as many, within half the range. -/
theorem Params.sdiff_addClk {P : Params} {a b : Clock} {n : Nat} (h : -2 ^ (P.clkW.bits - 1) ≤ P.sdiff a b - n) :
    P.sdiff a (P.addClk b (BitVec.ofNat 64 n)) = P.sdiff a b - n := by
  obtain ⟨z, hz, _, hhigh⟩ := P.sdiff_spec a b
  have hmod := Nat.div_add_mod (b.toNat + n) (2 ^ P.clkW.bits)
  rw [← Params.addClk_toNat] at hmod
  refine Params.sdiff_unique (z := z - ((b.toNat + n) / 2 ^ P.clkW.bits : Nat)) ?_ h (by omega)
  rw [hz]
  zify at hmod ⊢
  linarith

/-- The difference the other way round, but for the one value whose negative is out of range. -/
theorem Params.sdiff_swap {P : Params} {a b : Clock} (h : -2 ^ (P.clkW.bits - 1) < P.sdiff a b) :
    P.sdiff b a = -P.sdiff a b := by
  obtain ⟨z, hz, _, _⟩ := P.sdiff_spec a b
  exact Params.sdiff_unique (z := -z) (by rw [hz]; ring) (by omega) (by omega)

/-- Differences add up within half the range. -/
theorem Params.sdiff_add {P : Params} {a b c : Clock} (hlow : -2 ^ (P.clkW.bits - 1) ≤ P.sdiff a b + P.sdiff b c)
    (hhigh : P.sdiff a b + P.sdiff b c < 2 ^ (P.clkW.bits - 1)) : P.sdiff a c = P.sdiff a b + P.sdiff b c := by
  obtain ⟨y, hy, _⟩ := P.sdiff_spec a b
  obtain ⟨z, hz, _⟩ := P.sdiff_spec b c
  exact Params.sdiff_unique (z := y + z) (by rw [hy, hz]; ring) hlow hhigh

end Sys2Proof

namespace Sys2Proof.Machine

section Convert

variable (P : Params) (stop : Clock) (frac : BitVec 16) (sf : BitVec 32) (delta : Nat)

/-- The stop value after a conversion (40_clock_converter.md R138). -/
theorem convert_stop_toNat : (convert P stop frac sf delta).1.toNat =
    (stop.toNat * 65536 + frac.toNat + delta * sf.toNat) / 65536 % 2 ^ P.clkW.bits := by
  rw [convert, Params.wrap_toNat, BitVec.toNat_ofNat]
  cases P.clkW <;> simp only [ClockWidth.bits] <;> omega

theorem convert_fits : P.clockFits (convert P stop frac sf delta).1 = true := P.wrap_fits _

/-- The carry after a conversion (40_clock_converter.md R138). -/
theorem convert_frac_toNat : (convert P stop frac sf delta).2.toNat =
    (stop.toNat * 65536 + frac.toNat + delta * sf.toNat) % 65536 := BitVec.toNat_ofNat _ _

/-- A result is the conversion when its stop value and carry are the quotient and the remainder of the exact sum. -/
theorem eq_convert {c : Clock × BitVec 16}
    (hstop : c.1.toNat = (stop.toNat * 65536 + frac.toNat + delta * sf.toNat) / 65536 % 2 ^ P.clkW.bits)
    (hfrac : c.2.toNat = (stop.toNat * 65536 + frac.toNat + delta * sf.toNat) % 65536) :
    c = convert P stop frac sf delta :=
  Prod.ext (BitVec.eq_of_toNat_eq (hstop.trans (convert_stop_toNat ..).symm))
    (BitVec.eq_of_toNat_eq (hfrac.trans (convert_frac_toNat ..).symm))

/-- Converting nothing changes nothing. -/
theorem convert_zero {P : Params} {stop : Clock} (frac : BitVec 16) (sf : BitVec 32) (h : P.clockFits stop = true) :
    convert P stop frac sf 0 = (stop, frac) := by
  have hstop : stop.toNat < 2 ^ P.clkW.bits := by simpa [Params.clockFits] using h
  refine (eq_convert (c := (stop, frac)) P stop frac sf 0 ?_ ?_).symm
  · rw [Nat.zero_mul, Nat.add_zero, show (stop.toNat * 65536 + frac.toNat) / 65536 = stop.toNat by omega,
      Nat.mod_eq_of_lt hstop]
  · dsimp only
    omega

/-- Converting in two parts is converting the sum (40_clock_converter.md R138). -/
theorem convert_convert (more : Nat) :
    convert P (convert P stop frac sf delta).1 (convert P stop frac sf delta).2 sf more =
      convert P stop frac sf (delta + more) := by
  apply eq_convert
  · rw [convert_stop_toNat, convert_stop_toNat, convert_frac_toNat, Nat.add_mul]
    cases P.clkW <;> simp only [ClockWidth.bits] <;> omega
  · rw [convert_frac_toNat, convert_stop_toNat, convert_frac_toNat, Nat.add_mul]
    omega

/-- What a conversion adds to the room before a clock, when it stays within half the range. -/
theorem sdiff_convert {P : Params} {stop : Clock} {frac : BitVec 16} {sf : BitVec 32} {delta : Nat} {clk : Clock}
    (h : P.sdiff stop clk + ((frac.toNat + delta * sf.toNat) / 65536 : Nat) < 2 ^ (P.clkW.bits - 1)) :
    P.sdiff (convert P stop frac sf delta).1 clk =
      P.sdiff stop clk + ((frac.toNat + delta * sf.toNat) / 65536 : Nat) := by
  obtain ⟨z, hz, hlow, _⟩ := P.sdiff_spec stop clk
  have hquot : (stop.toNat * 65536 + frac.toNat + delta * sf.toNat) / 65536 =
      stop.toNat + (frac.toNat + delta * sf.toNat) / 65536 := by omega
  have hstop := convert_stop_toNat P stop frac sf delta
  rw [hquot] at hstop
  have hmod := Nat.div_add_mod (stop.toNat + (frac.toNat + delta * sf.toNat) / 65536) (2 ^ P.clkW.bits)
  rw [← hstop] at hmod
  refine Params.sdiff_unique
    (z := z + ((stop.toNat + (frac.toNat + delta * sf.toNat) / 65536) / 2 ^ P.clkW.bits : Nat)) ?_ (by omega) h
  rw [hz]
  zify at hmod ⊢
  linarith

end Convert

/-! The loop of R137. -/

/-- One table entry is the product split in two (40_clock_converter.md R131). -/
theorem tabInt_tabFrac (sf : BitVec 32) (i : Nat) : tabInt sf i * 65536 + tabFrac sf i = i * sf.toNat := by
  rw [tabInt, tabFrac, Nat.div_add_mod']

/-- The stop value and carry after one chunk of the loop (40_clock_converter.md R137). -/
def convertChunk (P : Params) (sf : BitVec 32) (c : Nat) (stop : Clock) (frac : BitVec 16) : Clock × BitVec 16 :=
  let stop1 := P.addClk stop (BitVec.ofNat 64 (tabInt sf c))
  let a := frac.toNat + tabFrac sf c
  if 65536 ≤ a then (P.addClk stop1 1, BitVec.ofNat 16 (a - 65536)) else (stop1, BitVec.ofNat 16 a)

theorem convertLoop_zero (P : Params) (sf : BitVec 32) (fuel : Nat) (stop : Clock) (frac : BitVec 16) :
    convertLoop P sf fuel 0 stop frac = (stop, frac) := by cases fuel <;> rfl

/-- The loop does one chunk and goes on with the rest. -/
theorem convertLoop_succ (P : Params) (sf : BitVec 32) (fuel : Nat) {delta : Nat} (stop : Clock) (frac : BitVec 16)
    (h : delta ≠ 0) :
    convertLoop P sf (fuel + 1) delta stop frac =
      convertLoop P sf fuel (delta - min delta P.horizon) (convertChunk P sf (min delta P.horizon) stop frac).1
        (convertChunk P sf (min delta P.horizon) stop frac).2 := by
  rw [convertLoop, if_neg h]
  dsimp only [convertChunk]
  split <;> rfl

/-- One chunk of the loop is a conversion: at most one carry occurs, for both addends are below 65536. -/
theorem convertChunk_eq_convert (P : Params) (sf : BitVec 32) (c : Nat) (stop : Clock) (frac : BitVec 16) :
    convertChunk P sf c stop frac = convert P stop frac sf c := by
  have htab := tabInt_tabFrac sf c
  have hmod : tabFrac sf c < 65536 := Nat.mod_lt _ (by decide)
  have hfrac := frac.isLt
  unfold convertChunk
  dsimp only
  split
  all_goals
    apply eq_convert
    · simp only [show (1 : Clock) = BitVec.ofNat 64 1 from rfl, Params.addClk_toNat, ← htab]
      cases P.clkW <;> simp only [ClockWidth.bits] <;> omega
    · simp only [BitVec.toNat_ofNat]
      omega

/-- The loop is the conversion of the whole delta, chunk by chunk. -/
theorem convertLoop_eq_convert {P : Params} (sf : BitVec 32) (hh : 1 ≤ P.horizon) {fuel delta : Nat} {stop : Clock}
    (frac : BitVec 16) (hfit : P.clockFits stop = true) (hfuel : delta ≤ fuel) :
    convertLoop P sf fuel delta stop frac = convert P stop frac sf delta := by
  induction fuel generalizing delta stop frac with
  | zero =>
    obtain rfl : delta = 0 := by omega
    rw [convertLoop_zero, convert_zero _ _ hfit]
  | succ fuel ih =>
    by_cases hd : delta = 0
    · rw [hd, convertLoop_zero, convert_zero _ _ hfit]
    · have hchunk : 1 ≤ min delta P.horizon := by omega
      rw [convertLoop_succ P sf fuel stop frac hd, convertChunk_eq_convert,
        ih _ (convert_fits ..) (by omega), convert_convert, Nat.add_sub_cancel' (Nat.min_le_left _ _)]

/-- Settles O22: the loop is the machine's conversion, whose two parts are the quotient and the remainder. -/
theorem conversionLoopHasTheClosedForm : Obligations.ConversionLoopHasTheClosedForm := by
  intro P sf fuel delta stop frac hh hfit hfuel
  rw [convertLoop_eq_convert sf hh frac hfit hfuel]
  exact ⟨convert_stop_toNat .., convert_frac_toNat ..⟩

end Sys2Proof.Machine

/-! The configuration commands of the converter (spec/40_clock_converter.md R130 to R136). -/

namespace Sys2Proof.Machine

/-- An update looks at its function on the present registers only. -/
theorem State.updDrive_congr {st : State} {d : Slot} {f g : Drive → Drive} (h : f (st.drive d) = g (st.drive d)) :
    st.updDrive d f = st.updDrive d g := by rw [State.updDrive, State.updDrive, h]

section Live

variable {i : Instr} {d : Slot} {f : State → State} {s : State}

/-- A drive command of a drive slot, outside the fatal state, is its effect. -/
theorem exec_drive_live (hexec : exec i = fun st => driveCommand st d f) (hlive : s.err.getLsbD 0 = false)
    (hd : s.params.isDrive d = true) : exec i s = .next (f s) := by
  rw [hexec]
  exact driveCommand_live hlive hd f

/-- A command without a slot, outside the fatal state, is its effect. -/
theorem exec_command_live (hexec : exec i = fun st => command st f) (hlive : s.err.getLsbD 0 = false) :
    exec i s = .next (f s) := by
  rw [hexec]
  exact command_live hlive f

end Live

/-! The sync factor (40_clock_converter.md R130). -/

/-- The sync factor is the exact ratio, or there is none when it does not fit 32 bits. -/
theorem sfCompute_eq (f : BitVec 32) (turbo : Bool) (d : BitVec 32) :
    sfCompute f turbo d =
      if exactRatio f turbo d < 2 ^ 32 then some (BitVec.ofNat 32 (exactRatio f turbo d)) else none := by
  cases turbo <;> simp [sfCompute, exactRatio]

theorem sfCompute_of_fits {f d : BitVec 32} {turbo : Bool} (h : exactRatio f turbo d < 2 ^ 32) :
    sfCompute f turbo d = some (BitVec.ofNat 32 (exactRatio f turbo d)) := by rw [sfCompute_eq, if_pos h]

theorem sfCompute_of_large {f d : BitVec 32} {turbo : Bool} (h : 2 ^ 32 ≤ exactRatio f turbo d) :
    sfCompute f turbo d = none := by rw [sfCompute_eq, if_neg (Nat.not_lt.mpr h)]

/-- A number between which and its successor the ratio lies is the exact ratio rounded down. -/
theorem exactRatio_unique {f d : BitVec 32} {turbo : Bool} {q : Nat} (hd : d ≠ 0)
    (hlow : q * d.toNat ≤ f.toNat * 2 ^ turbo.toNat * 65536)
    (hhigh : f.toNat * 2 ^ turbo.toNat * 65536 < (q + 1) * d.toNat) : exactRatio f turbo d = q := by
  have hturbo : (if turbo then 2 else 1) = 2 ^ turbo.toNat := by cases turbo <;> rfl
  rw [exactRatio, if_neg hd, hturbo]
  exact Nat.div_eq_of_lt_le hlow hhigh

/-- Settles O17: each clause names the exact ratio. -/
theorem syncFactorIsTheFlooredRatio : Obligations.SyncFactorIsTheFlooredRatio := by
  refine ⟨fun f d turbo q hd hlow hhigh => ?_, fun f turbo => ?_, fun d turbo => ?_, fun d hd => ?_, by decide⟩
  · rw [sfCompute_eq, exactRatio_unique hd hlow hhigh]
  · rw [sfCompute_eq]
    simp [exactRatio]
  · rw [sfCompute_eq]
    simp [exactRatio]
  · have hratio : exactRatio d false d = 65536 :=
      exactRatio_unique hd (by simp [Nat.mul_comm]) (by
        have hpos : 0 < d.toNat := Nat.pos_of_ne_zero fun h => hd (BitVec.eq_of_toNat_eq h)
        simp only [Bool.toNat_false, pow_zero]
        omega)
    rw [sfCompute_eq, hratio]
    rfl

/-! Frequencies (40_clock_converter.md R132 to R134). -/

/-- What SETFDRV asks of each drive before it changes anything (40_clock_converter.md R132). -/
theorem sfFor_isSome_iff (d : Drive) (f : BitVec 32) :
    (d.sfFor f).isSome = true ↔ exactRatio d.fLocal d.turbo f < 2 ^ 32 := by
  rw [Drive.sfFor, sfCompute_eq]
  split <;> simp_all

/-- Settles O18: either every factor fits and each drive slot is written once, or one does not and ConfigError is raised. -/
theorem setfdrvReplacesEveryFactor : Obligations.SetfdrvReplacesEveryFactor := by
  intro s f hlive
  have hfit : s.params.driveSlots.all (fun x => ((s.drive x).sfFor f).isSome) = true ↔
      ∀ x, s.params.isDrive x = true → exactRatio (s.drive x).fLocal (s.drive x).turbo f < 2 ^ 32 := by
    simp only [List.all_eq_true, Params.mem_driveSlots, sfFor_isSome_iff]
  refine ⟨fun hall => ?_, fun ⟨x, hx, hlarge⟩ => ?_⟩
  · obtain ⟨hframe, hdrive⟩ := foldl_updDrive_spec (fun d => { d with sf := (d.sfFor f).getD 0 })
      s.params.driveSlots_nodup { s with fDrive := f }
    refine ⟨_, (exec_command_live rfl hlive).trans ?_, hframe, fun x => ?_⟩
    · rw [if_pos (hfit.mpr hall)]
    rw [hdrive x]
    simp only [Params.mem_driveSlots]
    by_cases hx : s.params.isDrive x = true
    · rw [if_pos hx, if_pos hx]
      show { s.drive x with sf := ((s.drive x).sfFor f).getD 0 } = _
      rw [Drive.sfFor, sfCompute_of_fits (hall x hx)]
      rfl
    · rw [if_neg hx, if_neg hx]
      rfl
  · have hnot : ¬ s.params.driveSlots.all (fun x => ((s.drive x).sfFor f).isSome) = true :=
      fun h => absurd (hfit.mp h x hx) (Nat.not_lt.mpr hlarge)
    refine (exec_command_live rfl hlive).trans ?_
    rw [if_neg hnot]
    rfl

/-- Settles O19: the two commands differ in the register they write; both look at the factor first. -/
theorem setflocAndSetturboReplaceTheFactor : Obligations.SetflocAndSetturboReplaceTheFactor := by
  intro s d hlive hd
  refine ⟨fun f hf => ?_, fun f hf => ?_, fun b hcap hb => ?_, fun b hb => ?_⟩
  · refine (exec_drive_live rfl hlive hd).trans ?_
    rw [sfCompute_of_fits hf]
    exact congrArg _ (State.updDrive_congr rfl)
  · refine (exec_drive_live rfl hlive hd).trans ?_
    rw [sfCompute_of_large hf]
    rfl
  · have hnot : ¬ (b = true ∧ s.params.turboCap.read d = false) := fun h => by rw [hcap h.1] at h; cases h.2
    refine (exec_drive_live rfl hlive hd).trans ?_
    rw [if_neg hnot, sfCompute_of_fits hb]
    exact congrArg _ (State.updDrive_congr rfl)
  · refine (exec_drive_live rfl hlive hd).trans ?_
    by_cases hcap : b = true ∧ s.params.turboCap.read d = false
    · rw [if_pos hcap]
      rfl
    · rw [if_neg hcap, sfCompute_of_large (hb.resolve_left hcap)]
      rfl

end Sys2Proof.Machine

/-! One resolution of the bus as the statements say it (spec/42_bus_arbiter.md R175, R176), and the two commands that attach and
detach a drive (spec/40_clock_converter.md R135, R136). -/

namespace Sys2Proof.Machine

/-- A bit of an AND of bytes. -/
theorem foldl_and_getLsbD {α : Type} (f : α → Byte) (l : List α) (b : Byte) (k : Nat) :
    (l.foldl (fun acc x => acc &&& f x) b).getLsbD k = true ↔
      b.getLsbD k = true ∧ ∀ x ∈ l, (f x).getLsbD k = true := by
  induction l generalizing b with
  | nil => simp
  | cons x l ih => simp [ih, and_assoc]

theorem State.mem_attachedSlots_iff (st : State) (p : Slot) :
    p ∈ st.attachedSlots ↔ st.params.isPart p = true ∧ (p = 0 ∨ (st.drive p).en = true) := by
  rw [State.mem_attachedSlots, State.attached, Bool.or_eq_true, beq_iff_eq]

/-- A line is released when no attached participant pulls it (42_bus_arbiter.md R175, R176). -/
theorem State.wiredAnd_getLsbD (st : State) {k : Nat} (hk : k < 8) : st.wiredAnd.getLsbD k = true ↔
    ∀ p, st.params.isPart p = true → p = 0 ∨ (st.drive p).en = true →
      (contrib st.params (st.part p)).getLsbD k = true := by
  have hff : (0xFF : Byte).getLsbD k = true := by interval_cases k <;> rfl
  simp only [State.wiredAnd, foldl_and_getLsbD, hff, true_and, State.mem_attachedSlots_iff, and_imp]

/-- An edge on line 1 sets the CL1 flag and latches the level (43_peripheral_chip.md R240). -/
theorem Chip.signal_cl1 (c : Chip) (level : Bool) : c.signal .cl1 (if level then .rise else .fall) =
    { c with ifr := c.ifr ||| 0b00001, cl := if level then c.cl ||| 0b0001 else c.cl &&& 0b1110 } := by
  cases level <;> rfl

/-- A resolution is one resolution (42_bus_arbiter.md R176). -/
theorem State.resolve_resolved (st : State) : Resolved st st.resolve := by
  obtain ⟨hrest, hpart⟩ := st.resolve_spec
  refine ⟨?_, fun k hk => ?_, ?_, fun hne p hp ha => ?_, fun p hquiet => ?_⟩
  · rw [State.resolve_bus, State.resolve_atn]
    exact hrest
  · rw [State.resolve_bus]
    exact st.wiredAnd_getLsbD hk
  · rw [State.resolve_bus, State.resolve_atn]
    rfl
  · rw [State.resolve_atn] at hne
    rw [hpart p, if_pos ⟨hne, (st.mem_attachedSlots_iff p).mpr ⟨hp, ha⟩⟩, Chip.signal_cl1, State.resolve_atn]
  · rw [State.resolve_atn] at hquiet
    rw [hpart p, if_neg]
    rintro ⟨hne, hmem⟩
    obtain ⟨hp, ha⟩ := (st.mem_attachedSlots_iff p).mp hmem
    rcases hquiet with h | h | h
    · exact hne h
    · rw [hp] at h
      cases h
    · exact h ha

/-- Settles O20: an enabled drive is left alone; a detached one is written once and the bus resolved. -/
theorem enableAttachesAndWakes : Obligations.EnableAttachesAndWakes := by
  intro s d now hlive hd
  refine ⟨fun hen => ?_, fun hen => ⟨_, ?_, State.resolve_resolved _⟩⟩
  · refine (exec_drive_live rfl hlive hd).trans ?_
    rw [if_pos hen]
  · refine (exec_drive_live rfl hlive hd).trans ?_
    rw [if_neg (by simp [hen])]
    exact congrArg (Host.Outcome.next ∘ State.resolve) (State.updDrive_congr rfl)

/-- Settles O21: a detached drive is left alone; an enabled one has its registers cleared and the bus resolved. -/
theorem disableDetaches : Obligations.DisableDetaches := by
  intro s d hlive hd
  refine ⟨fun hen => ?_, fun hen => ⟨_, ?_, State.resolve_resolved _⟩⟩
  · refine (exec_drive_live rfl hlive hd).trans ?_
    rw [if_neg (by simp [hen])]
  · refine (exec_drive_live rfl hlive hd).trans ?_
    rw [if_pos hen]
    refine congrArg (Host.Outcome.next ∘ State.resolve) ?_
    simp [State.chipReset, State.updDrive, State.updPart, State.part, State.drive]

end Sys2Proof.Machine

/-! Timers tick by tick (spec/43_peripheral_chip.md R204, R205), and the idle-loop jump (spec/40_clock_converter.md R144). -/

namespace Sys2Proof.Machine

section Timers

variable {t : Timer} {freeRun : Bool} {n : Nat}

theorem Timer.tick_halted (h : t.run = false) : t.tick freeRun n = (t, false) := by simp [Timer.tick, h]

/-- A running timer before its expiry, and past it: reloaded or halted (43_peripheral_chip.md R205). -/
theorem Timer.tick_within (h : t.run = true) (hn : n ≤ t.count.toNat) :
    t.tick freeRun n = ({ t with count := BitVec.ofNat 16 (t.count.toNat - n) }, false) := by
  rw [Timer.tick, if_pos h, if_pos hn]

theorem Timer.tick_past (h : t.run = true) (hn : t.count.toNat < n) : t.tick freeRun n =
    (if freeRun then
      { t with count := BitVec.ofNat 16 (t.latch.toNat - (n - (t.count.toNat + 1)) % (t.latch.toNat + 1)) }
    else { t with count := 0, run := false }, true) := by
  rw [Timer.tick, if_pos h, if_neg (Nat.not_le.mpr hn)]
  cases freeRun <;> rfl

theorem Timer.tick_zero : t.tick freeRun 0 = (t, false) := by
  cases h : t.run with
  | false => exact Timer.tick_halted h
  | true => simp [Timer.tick_within h (Nat.zero_le _)]

theorem Timer.tickOnce_reload (h : t.run = true) (hcount : t.count = 0) :
    t.tickOnce true = ({ t with count := t.latch }, true) := by
  rw [Timer.tickOnce, if_pos h, if_pos hcount, if_pos rfl]

theorem Timer.tickOnce_halt (h : t.run = true) (hcount : t.count = 0) :
    t.tickOnce false = ({ t with run := false }, true) := by
  rw [Timer.tickOnce, if_pos h, if_pos hcount, if_neg Bool.false_ne_true]

theorem Timer.tickOnce_count (h : t.run = true) (hcount : t.count ≠ 0) :
    t.tickOnce freeRun = ({ t with count := t.count - 1 }, false) := by
  rw [Timer.tickOnce, if_pos h, if_neg hcount]

/-- The closed form for one tick more: the tick comes first (43_peripheral_chip.md R204, R205). -/
theorem Timer.tick_succ : t.tick freeRun (n + 1) =
    (((t.tickOnce freeRun).1.tick freeRun n).1, (t.tickOnce freeRun).2 || ((t.tickOnce freeRun).1.tick freeRun n).2) := by
  cases hrun : t.run with
  | false => simp [Timer.tickOnce, hrun, Timer.tick_halted]
  | true =>
    by_cases hcount : t.count = 0
    · rw [Timer.tick_past hrun (by simp [hcount])]
      cases freeRun with
      | false =>
        rw [Timer.tickOnce_halt hrun hcount, Timer.tick_halted rfl]
        simp [hcount]
      | true =>
        rw [Timer.tickOnce_reload hrun hcount]
        by_cases hn : n ≤ t.latch.toNat
        · rw [Timer.tick_within (t := { t with count := t.latch }) hrun hn]
          simp [hcount, Nat.mod_eq_of_lt (Nat.lt_succ_of_le hn)]
        · rw [Timer.tick_past (t := { t with count := t.latch }) hrun (Nat.not_le.mp hn)]
          simp [hcount, Nat.mod_eq_sub_mod (Nat.not_le.mp hn)]
    · have hpos : t.count.toNat ≠ 0 := fun h => hcount (BitVec.eq_of_toNat_eq h)
      have hless : (t.count - 1).toNat = t.count.toNat - 1 := by bv_omega
      rw [Timer.tickOnce_count hrun hcount]
      by_cases hn : n + 1 ≤ t.count.toNat
      · rw [Timer.tick_within hrun hn, Timer.tick_within (t := { t with count := t.count - 1 }) hrun (by rw [hless]; omega)]
        dsimp only
        rw [hless, show t.count.toNat - 1 - n = t.count.toNat - (n + 1) by omega]
        rfl
      · rw [Timer.tick_past hrun (by omega), Timer.tick_past (t := { t with count := t.count - 1 }) hrun (by rw [hless]; omega)]
        dsimp only
        rw [hless, show n - (t.count.toNat - 1 + 1) = n + 1 - (t.count.toNat + 1) by omega]
        rfl

end Timers

/-- A flag is set when the timer expires on the first tick or on a later one. -/
theorem ite_or_bits {w : Nat} (a b : Bool) (x : BitVec w) :
    (if (a || b) = true then x else 0) = (if a = true then x else 0) ||| (if b = true then x else 0) := by
  cases a <;> cases b <;> simp

theorem ite_setFlag (b : Bool) (c : Chip) (f : IrqSource) :
    (if b = true then c.setFlag f else c) = { c with ifr := c.ifr ||| (if b = true then f.bit else 0) } := by
  cases b <;> simp [Chip.setFlag]

/-- One tick of a chip in one piece (43_peripheral_chip.md R204). -/
theorem Chip.tickOnce_eq (c : Chip) : c.tickOnce =
    { c with
      t1 := (c.t1.tickOnce c.t1FreeRun).1
      t2 := (c.t2.tickOnce c.t2FreeRun).1
      ifr := c.ifr ||| (if (c.t1.tickOnce c.t1FreeRun).2 then IrqSource.t1.bit else 0)
        ||| (if (c.t2.tickOnce c.t2FreeRun).2 then IrqSource.t2.bit else 0) } := by
  unfold Chip.tickOnce
  dsimp only
  rw [ite_setFlag, ite_setFlag]
  rfl

/-- The closed form of a chip's ticks is the loop (43_peripheral_chip.md R204, R205; log entry 11). -/
theorem Chip.tick_eq_tickLoop (c : Chip) (n : Nat) : c.tick n = Chip.tickLoop n c := by
  induction n generalizing c with
  | zero => simp [Chip.tick, Chip.tickLoop, Timer.tick_zero]
  | succ n ih =>
    rw [Chip.tickLoop, ← ih, Chip.tickOnce_eq]
    simp only [Chip.tick, Timer.tick_succ, ite_or_bits, Chip.t1FreeRun, Chip.t2FreeRun]
    ac_rfl

theorem State.chipTick_eq_tickLoop (st : State) (p : Slot) (n : Nat) : st.chipTick p n = st.updChip p (Chip.tickLoop n) :=
  congrArg (st.updChip p) (funext fun c => c.tick_eq_tickLoop n)

/-! The idle-loop jump (40_clock_converter.md R144). -/

/-- The local clock and the chip's timers of slot `s` moved by the same number of ticks (40_clock_converter.md R142, R144). -/
def State.ticked (st : State) (s : Slot) (n : Nat) : State :=
  (st.updDrive s (fun d => { d with localClk := st.params.addClk d.localClk (BitVec.ofNat 64 n) })).chipTick s n

section Ticked

variable {st : State} {s : Slot} {n : Nat}

@[simp] theorem State.ticked_params : (st.ticked s n).params = st.params := rfl

theorem State.ticked_drive_same : (st.ticked s n).drive s =
    { st.drive s with localClk := st.params.addClk (st.drive s).localClk (BitVec.ofNat 64 n) } := by
  rw [State.ticked, State.chipTick_drive, State.updDrive_drive_same]

theorem State.ticked_drive_ne {x : Slot} (h : x ≠ s) : (st.ticked s n).drive x = st.drive x := by
  rw [State.ticked, State.chipTick_drive, State.updDrive_drive_ne _ _ h]

end Ticked

/-- A slot runs when it is enabled, not jammed and before its stop value (10_state.md R27). -/
theorem State.running_iff (st : State) (s : Slot) : st.running s = true ↔
    (st.drive s).en = true ∧ (st.drive s).jam = false ∧
      0 < st.params.sdiff (st.drive s).stopClk (st.drive s).localClk := by
  simp [State.running, and_assoc]

theorem State.not_running_iff (st : State) (s : Slot) : st.running s = false ↔
    (st.drive s).en = false ∨ (st.drive s).jam = true ∨
      st.params.sdiff (st.drive s).stopClk (st.drive s).localClk ≤ 0 := by
  rw [← Bool.not_eq_true, State.running_iff, not_and_or, not_and_or, Bool.not_eq_true, Bool.not_eq_false, Int.not_lt]

/-- The ticks an idle-loop jump passes: those to the earliest expiry, or those to the stop value. -/
def idleTicks (c : Chip) (room : Nat) : Nat :=
  match c.ticksToExpiry with
  | some t => min t room
  | none => room

theorem idleTicks_le (c : Chip) (room : Nat) : idleTicks c room ≤ room := by
  unfold idleTicks
  split
  · exact Nat.min_le_right _ _
  · exact Nat.le_refl _

/-- The jump is the longest one that passes neither the stop value nor an expiry, and reaches one of them. -/
theorem idleTicks_unique {c : Chip} {room n : Nat} (hroom : n ≤ room) (h1 : c.t1.run = true → n ≤ c.t1.count.toNat + 1)
    (h2 : c.t2.run = true → n ≤ c.t2.count.toNat + 1)
    (hreach : n = room ∨ (c.t1.run = true ∧ n = c.t1.count.toNat + 1) ∨ (c.t2.run = true ∧ n = c.t2.count.toNat + 1)) :
    idleTicks c room = n := by
  unfold idleTicks Chip.ticksToExpiry
  cases hrun1 : c.t1.run <;> cases hrun2 : c.t2.run <;>
    simp only [hrun1, hrun2, Bool.false_eq_true, true_implies, true_and, false_and, or_false, false_or] at h1 h2 hreach ⊢ <;>
    omega

theorem idleTrap_idle {s : Slot} {st : State} (h : st.running s = false) : idleTrap s st = st := by
  rw [idleTrap, if_neg (by simp [h])]

theorem idleTrap_running {s : Slot} {st : State} (h : st.running s = true) : idleTrap s st =
    st.ticked s (idleTicks (st.chip s) (st.params.sdiff (st.drive s).stopClk (st.drive s).localClk).toNat) := by
  rw [idleTrap, if_pos h]
  rfl

/-- Settles O30: the number of ticks is the one the clauses pin, and the chip's closed form is the loop. -/
theorem idletrapJumpsToTheNextEvent : Obligations.IdletrapJumpsToTheNextEvent := by
  intro s d hlive hd
  refine ⟨fun hidle => ?_, fun hen hjam hroom n hle h1 h2 hreach => ?_⟩
  · refine (exec_drive_live rfl hlive hd).trans ?_
    rw [idleTrap_idle ((s.not_running_iff d).mpr hidle)]
  · have hticks : idleTicks (s.chip d) (s.params.sdiff (s.drive d).stopClk (s.drive d).localClk).toNat = n :=
      idleTicks_unique (by omega) h1 h2 (hreach.imp_left fun h => by omega)
    refine (exec_drive_live rfl hlive hd).trans ?_
    rw [idleTrap_running ((s.running_iff d).mpr ⟨hen, hjam, hroom⟩), hticks, State.ticked,
      State.chipTick_eq_tickLoop]

end Sys2Proof.Machine

/-! Jams (spec/40_clock_converter.md R143, spec/60_exceptions.md R292, R304): no work of the block ends a jam, and of the commands
only those of recovery, each in its own slot. -/

namespace Sys2Proof.Machine

/-- Every slot other than `y` that was jammed still is. -/
def JamsKeptBut (y : Slot) (s t : State) : Prop := ∀ x, x ≠ y → (s.drive x).jam = true → (t.drive x).jam = true

/-- Every slot that was jammed still is. -/
def JamsKept (s t : State) : Prop := ∀ x, (s.drive x).jam = true → (t.drive x).jam = true

section Rules

variable {s t : State} {y : Slot} {f : Drive → Drive}

theorem JamsKept.refl (s : State) : JamsKept s s := fun _ => id

theorem JamsKept.but (h : JamsKept s t) : JamsKeptBut y s t := fun x _ => h x

/-- Only the drive registers count. -/
theorem JamsKept.congr {u : State} (h : JamsKept s t) (hd : u.drives = t.drives) : JamsKept s u := fun x hx => by
  rw [State.drive, hd]
  exact h x hx

theorem JamsKept.of_drives (h : t.drives = s.drives) : JamsKept s t := (JamsKept.refl s).congr h

theorem JamsKept.updDrive (h : JamsKept s t) (hf : ∀ d, d.jam = true → (f d).jam = true) : JamsKept s (t.updDrive y f) := by
  intro x hx
  rw [State.updDrive_drive]
  split
  · rename_i hxy
    exact hf _ (hxy ▸ h x hx)
  · exact h x hx

theorem JamsKept.resolve (h : JamsKept s t) : JamsKept s t.resolve := fun x hx => by
  rw [State.resolve_drive]
  exact h x hx

theorem JamsKept.foldl_updDrive {l : List Slot} (h : JamsKept s t) (hf : ∀ d, d.jam = true → (f d).jam = true) :
    JamsKept s (l.foldl (fun u x => u.updDrive x f) t) :=
  List.foldlRecOn l _ h fun _ hu _ _ => hu.updDrive hf

theorem JamsKeptBut.of_drive (h : ∀ x, x ≠ y → t.drive x = s.drive x) : JamsKeptBut y s t := fun x hx hjam => by
  rwa [h x hx]

theorem JamsKeptBut.resolve (h : JamsKeptBut y s t) : JamsKeptBut y s t.resolve := fun x hx hjam => by
  rw [State.resolve_drive]
  exact h x hx hjam

end Rules

/-! Catch-up and what nests in it. -/

/-- Each step of a catch-up keeps every jam (40_clock_converter.md R143). -/
theorem jamsKept_inv (T : Clock) (s0 : State) : CatchInv T (· ≠ 0) (fun _ => True) (JamsKept s0) where
  nonhost _ h := h
  drives _ _ _ hd := Params.isDrive_ne_zero ((Params.mem_driveSlots _ _).mp hd)
  enter _ _ h _ _ _ _ := ⟨trivial, h.updDrive fun _ => id⟩
  ask _ _ _ _ h := h
  jam s _ addr _ h _ :=
    (h.updDrive (y := s) (f := fun d => { d with jam := true, jamAddr := addr }) fun _ _ => rfl).congr rfl
  ticks s st n _ h :=
    (h.updDrive (y := s) (f := fun d => { d with localClk := st.params.addClk d.localClk (BitVec.ofNat 64 n) })
      fun _ => id).congr rfl
  read _ _ _ _ _ h := h
  hear _ _ _ _ h := h
  store _ _ _ _ _ h := h
  signal _ _ _ _ _ h := h
  clamp _ _ _ h _ := h
  notify _ _ _ _ h := JamsKept.resolve h

section Effects

variable {T : Clock} {st : State} {p : Slot}

theorem JamsKept.of_catchUp (hp : p ≠ 0) : JamsKept st (catchUp p T st) :=
  (catchUp_keeps (jamsKept_inv T st) p st hp (.refl st)).1

theorem JamsKept.of_catchAll : JamsKept st (catchAll catchUp T st) :=
  (catchAll_keeps (jamsKept_inv T st) (catchUp_keeps (jamsKept_inv T st)) st (.refl st)).1

theorem JamsKept.of_outChg {byte : Byte} {act : Bool} : JamsKept st (outChg catchUp p byte act T st) :=
  (outChg_keeps (jamsKept_inv T st) (catchUp_keeps (jamsKept_inv T st)) trivial byte act st (.refl st)).1

theorem JamsKept.of_chipStore {r : ChipReg} {b : Byte} {rmw : Bool} : JamsKept st (chipStore catchUp p r b rmw T st) :=
  (chipStore_keeps (jamsKept_inv T st) (catchUp_keeps (jamsKept_inv T st)) trivial r b rmw st (.refl st)).1

theorem JamsKept.of_chipRead {r : ChipReg} : JamsKept st (chipRead catchUp p r T st).2 := by
  by_cases h : p = 0 ∧ r = .pb
  · obtain ⟨rfl, rfl⟩ := h
    rw [chipRead_host]
    exact JamsKept.resolve JamsKept.of_catchAll
  · rw [chipRead_plain (by tauto)]
    exact .refl st

theorem JamsKept.of_idleTrap : JamsKept st (idleTrap p st) :=
  (idleTrap_keeps (jamsKept_inv 0 st) trivial st (.refl st)).1

end Effects

/-! Commands. -/

section Commands

variable {st t : State} {p : Slot} {f : State → State}

theorem command_jamsKept (h : command st f = .next t) (hf : JamsKept st (f st)) : JamsKept st t := by
  rcases command_cases h with ⟨_, rfl⟩ | ⟨_, rfl⟩
  · exact .refl t
  · exact hf

theorem driveCommand_jamsKept (h : driveCommand st p f = .next t)
    (hf : st.params.isDrive p = true → JamsKept st (f st)) : JamsKept st t := by
  rcases driveCommand_cases h with ⟨_, rfl⟩ | ⟨_, _, rfl⟩ | ⟨_, hp, rfl⟩
  · exact .refl t
  · exact .of_drives rfl
  · exact hf hp

theorem partCommand_jamsKept (h : partCommand st p f = .next t) (hf : JamsKept st (f st)) : JamsKept st t := by
  rcases partCommand_cases h with ⟨_, rfl⟩ | ⟨_, _, rfl⟩ | ⟨_, _, rfl⟩
  · exact .refl t
  · exact .of_drives rfl
  · exact hf

theorem readCommand_jamsKept {r : ChipReg} {opa : Clock} (h : readCommand r p opa st = .next t) : JamsKept st t :=
  partCommand_jamsKept h JamsKept.of_chipRead

theorem storeCommand_jamsKept {r : ChipReg} {rmw : Bool} {imm : Byte} {opa : Clock}
    (h : storeCommand r p rmw imm opa st = .next t) : JamsKept st t := partCommand_jamsKept h .of_chipStore

theorem execCsrrd_jamsKept {sel : Csr} {opb : BitVec 32} (h : execCsrrd p sel opb st = .next t) : JamsKept st t := by
  refine command_jamsKept h ?_
  split
  · split <;> exact .of_drives rfl
  · exact .of_drives rfl

theorem execSetfdrv_jamsKept {opb : BitVec 32} (h : execSetfdrv opb st = .next t) : JamsKept st t := by
  refine command_jamsKept h ?_
  split
  · exact .foldl_updDrive (.of_drives rfl) fun _ => id
  · exact .of_drives rfl

theorem execSetfloc_jamsKept {opb : BitVec 32} (h : execSetfloc p opb st = .next t) : JamsKept st t := by
  refine driveCommand_jamsKept h fun _ => ?_
  split
  · exact .updDrive (.refl st) fun _ => id
  · exact .of_drives rfl

theorem execSetturbo_jamsKept {on : Bool} (h : execSetturbo p on st = .next t) : JamsKept st t := by
  refine driveCommand_jamsKept h fun _ => ?_
  split
  · exact .of_drives rfl
  · split
    · exact .updDrive (.refl st) fun _ => id
    · exact .of_drives rfl

theorem execEnable_jamsKept {opa : Clock} (h : execEnable p opa st = .next t) : JamsKept st t := by
  refine driveCommand_jamsKept h fun _ => ?_
  dsimp only
  split
  · exact .refl st
  · exact .resolve (.updDrive (.refl st) fun _ => id)

theorem execDisable_jamsKept (h : execDisable p st = .next t) : JamsKept st t := by
  refine driveCommand_jamsKept h fun _ => ?_
  split
  · exact .resolve (.updDrive (.of_drives rfl) fun _ => id)
  · exact .refl st

theorem Drive.rebase_jam (P : Params) (amt : Clock) (d : Drive) : (d.rebase P amt).jam = d.jam := by
  unfold Drive.rebase
  split <;> rfl

theorem execMaybereb_jamsKept {opa : Clock} (h : execMaybereb opa st = .next t) : JamsKept st t := by
  refine command_jamsKept h ?_
  split
  · exact JamsKept.foldl_updDrive (.of_drives rfl) fun d hd => by rwa [Drive.rebase_jam]
  · exact .of_drives rfl

theorem execFast_jamsKept {dir : Direction} {imm : Byte} (h : execFast p dir imm st = .next t) : JamsKept st t := by
  refine driveCommand_jamsKept h fun _ => ?_
  split <;> exact .of_drives rfl

theorem execClrerr_jamsKept (h : execClrerr st = .next t) : JamsKept st t := command_jamsKept h (.of_drives rfl)

theorem execSnapsave_jamsKept {kind : BlockKind} {opa : Clock} (h : execSnapsave p kind opa st = .next t) :
    JamsKept st t := partCommand_jamsKept h (JamsKept.congr .of_catchAll rfl)

theorem execCatchup_jamsKept {opa : Clock} (h : execCatchup p opa st = .next t) : JamsKept st t :=
  driveCommand_jamsKept h fun hp => .of_catchUp (Params.isDrive_ne_zero hp)

theorem execSyncall_jamsKept {opa : Clock} (h : execSyncall opa st = .next t) : JamsKept st t :=
  command_jamsKept h .of_catchAll

theorem execIdletrap_jamsKept (h : execIdletrap p st = .next t) : JamsKept st t :=
  driveCommand_jamsKept h fun _ => .of_idleTrap

theorem execGreg_jamsKept (h : execGreg p st = .next t) : JamsKept st t :=
  driveCommand_jamsKept h fun _ => .updDrive (.refl st) fun _ => id

theorem execAdvance_jamsKept {opb : BitVec 32} (h : execAdvance opb st = .next t) : JamsKept st t :=
  command_jamsKept h (.of_drives rfl)

theorem execOutchg_jamsKept {act : Bool} {imm : Byte} {opa : Clock} (h : execOutchg p act imm opa st = .next t) :
    JamsKept st t := partCommand_jamsKept h .of_outChg

theorem execResolve_jamsKept (h : execResolve st = .next t) : JamsKept st t :=
  command_jamsKept h (.resolve (.refl st))

theorem execSetmode_jamsKept {mode : BusMode} (h : execSetmode p mode st = .next t) : JamsKept st t :=
  partCommand_jamsKept h (.resolve (.of_drives rfl))

theorem execFastneg_jamsKept {on : Bool} (h : execFastneg p on st = .next t) : JamsKept st t :=
  partCommand_jamsKept h (.of_drives rfl)

theorem execSignal_jamsKept {line : ControlLine} {edge : Edge} (h : execSignal p line edge st = .next t) :
    JamsKept st t := partCommand_jamsKept h (.of_drives rfl)

theorem execPina_jamsKept {imm : Byte} (h : execPina p imm st = .next t) : JamsKept st t :=
  partCommand_jamsKept h (.of_drives rfl)

/-- A reset of a drive ends the jam of its own slot only (44_system_ops.md R261, R262). -/
theorem driveReset_jamsKeptBut {kind : ResetKind} {now : Clock} : JamsKeptBut p st (driveReset kind p now st) :=
  .resolve (.of_drive fun x hx => by simp [State.updDrive_drive_ne _ _ hx])

theorem driveCommand_jamsKeptBut (h : driveCommand st p f = .next t) (hf : JamsKeptBut p st (f st)) : JamsKeptBut p st t := by
  rcases driveCommand_cases h with ⟨_, rfl⟩ | ⟨_, _, rfl⟩ | ⟨_, _, rfl⟩
  · exact JamsKept.but (.refl t)
  · exact JamsKept.but (.of_drives rfl)
  · exact hf

theorem execDreset_jamsKeptBut {opa : Clock} (h : execDreset p opa st = .next t) : JamsKeptBut p st t :=
  driveCommand_jamsKeptBut h driveReset_jamsKeptBut

theorem execDhreset_jamsKeptBut {opa : Clock} (h : execDhreset p opa st = .next t) : JamsKeptBut p st t :=
  driveCommand_jamsKeptBut h driveReset_jamsKeptBut

theorem execDbgatt_jamsKeptBut {opa : Clock} (h : execDbgatt p opa st = .next t) : JamsKeptBut p st t := by
  refine driveCommand_jamsKeptBut h ?_
  split
  · exact .of_drive fun x hx => State.updDrive_drive_ne _ _ hx
  · exact JamsKept.but (.refl st)

theorem loadPctx_jamsKeptBut {bs : List Byte} : JamsKeptBut p st (loadPctx p bs st) := by
  unfold loadPctx
  dsimp only
  split
  · exact JamsKept.but (.of_drives rfl)
  · exact .of_drive fun x hx => by simp [State.updDrive_drive_ne _ _ hx]

/-- A snapshot load of a ProcessorContext may end the jam of its own slot, and one of a chip none
(44_system_ops.md R267). -/
theorem execSnapload_jamsKept {kind : BlockKind} {bs : List Byte} (h : execSnapload p kind bs st = .next t) :
    JamsKept st t ∨ (kind = .pctx ∧ JamsKeptBut p st t) := by
  cases kind with
  | chip =>
    refine .inl (partCommand_jamsKept h ?_)
    dsimp only
    split <;> exact .of_drives rfl
  | pctx =>
    refine .inr ⟨rfl, ?_⟩
    rcases partCommand_cases h with ⟨_, rfl⟩ | ⟨_, _, rfl⟩ | ⟨_, _, rfl⟩
    · exact JamsKept.but (.refl t)
    · exact JamsKept.but (.of_drives rfl)
    · dsimp only
      split
      · exact JamsKept.but (.of_drives rfl)
      · exact JamsKept.but (.of_drives rfl)
      · exact loadPctx_jamsKeptBut

end Commands

/-- A command that may end the jam of slot `y`: one of recovery of that slot, or a snapshot load over it. -/
inductive Instr.Recovers : Instr → Slot → Prop where
  | dreset (y : Slot) (opa : Clock) : Recovers (.dreset y opa) y
  | dhreset (y : Slot) (opa : Clock) : Recovers (.dhreset y opa) y
  | dbgatt (y : Slot) (opa : Clock) : Recovers (.dbgatt y opa) y
  | snapload (y : Slot) (bs : List Byte) : Recovers (.snapload y .pctx bs) y

/-- Every command but MRESET keeps every jam, or every jam but that of the slot it recovers. -/
theorem exec_jamsKept {i : Instr} {s t : State} (hi : i ≠ .mreset) (h : exec i s = .next t) :
    JamsKept s t ∨ ∃ y, Instr.Recovers i y ∧ JamsKeptBut y s t := by
  cases i with
  | mreset => exact absurd rfl hi
  | dreset slot opa => exact .inr ⟨slot, .dreset slot opa, execDreset_jamsKeptBut h⟩
  | dhreset slot opa => exact .inr ⟨slot, .dhreset slot opa, execDhreset_jamsKeptBut h⟩
  | dbgatt slot opa => exact .inr ⟨slot, .dbgatt slot opa, execDbgatt_jamsKeptBut h⟩
  | snapload slot kind sdat =>
    rcases execSnapload_jamsKept h with hkept | ⟨rfl, hkept⟩
    · exact .inl hkept
    · exact .inr ⟨slot, .snapload slot sdat, hkept⟩
  | clrerr => exact .inl (execClrerr_jamsKept h)
  | csrrd slot sel opb => exact .inl (execCsrrd_jamsKept h)
  | snapsave slot kind opa => exact .inl (execSnapsave_jamsKept h)
  | setfdrv opb => exact .inl (execSetfdrv_jamsKept h)
  | setfloc slot opb => exact .inl (execSetfloc_jamsKept h)
  | setturbo slot on => exact .inl (execSetturbo_jamsKept h)
  | enable slot opa => exact .inl (execEnable_jamsKept h)
  | disable slot => exact .inl (execDisable_jamsKept h)
  | catchup slot opa => exact .inl (execCatchup_jamsKept h)
  | syncall opa => exact .inl (execSyncall_jamsKept h)
  | idletrap slot => exact .inl (execIdletrap_jamsKept h)
  | greg slot => exact .inl (execGreg_jamsKept h)
  | advance opb => exact .inl (execAdvance_jamsKept h)
  | maybereb opa => exact .inl (execMaybereb_jamsKept h)
  | outchg slot act imm opa => exact .inl (execOutchg_jamsKept h)
  | resolve => exact .inl (execResolve_jamsKept h)
  | setmode slot mode => exact .inl (execSetmode_jamsKept h)
  | fastneg slot on => exact .inl (execFastneg_jamsKept h)
  | fast slot dir imm => exact .inl (execFast_jamsKept h)
  | rdPb slot opa | rdPa slot opa | rdDdrb slot opa | rdDdra slot opa | rdT1cl slot opa | rdT1ch slot opa | rdT1ll slot opa
  | rdT1lh slot opa | rdT2cl slot opa | rdT2ch slot opa | rdT2ll slot opa | rdT2lh slot opa | rdSr slot opa | rdCr slot opa
  | rdIfr slot opa | rdIer slot opa => exact .inl (readCommand_jamsKept h)
  | wrPb slot rmw imm opa | wrPa slot rmw imm opa | wrDdrb slot rmw imm opa | wrDdra slot rmw imm opa
  | wrT1cl slot rmw imm opa | wrT1ch slot rmw imm opa | wrT1ll slot rmw imm opa | wrT1lh slot rmw imm opa
  | wrT2cl slot rmw imm opa | wrT2ch slot rmw imm opa | wrT2ll slot rmw imm opa | wrT2lh slot rmw imm opa
  | wrSr slot rmw imm opa | wrCr slot rmw imm opa | wrIfr slot rmw imm opa | wrIer slot rmw imm opa =>
    exact .inl (storeCommand_jamsKept h)
  | signal slot line edge => exact .inl (execSignal_jamsKept h)
  | pina slot imm => exact .inl (execPina_jamsKept h)

/-- Settles O16: a jam that ended was not kept, so the command is MRESET or recovers the jammed slot. -/
theorem onlyRecoveryEndsAJam : Obligations.OnlyRecoveryEndsAJam := by
  intro i s t x h hjam hended
  by_cases hi : i = .mreset
  · exact .inl hi
  · refine .inr ?_
    rcases exec_jamsKept hi h with hkept | ⟨y, hrec, hkept⟩
    · exact absurd (hkept x hjam) (by simp [hended])
    · have hxy : x = y := by
        by_contra hne
        exact absurd (hkept x hne hjam) (by simp [hended])
      subst hxy
      cases hrec with
      | dreset _ opa => exact .inl ⟨opa, rfl⟩
      | dhreset _ opa => exact .inr (.inl ⟨opa, rfl⟩)
      | dbgatt _ opa => exact .inr (.inr (.inl ⟨opa, rfl⟩))
      | snapload _ bs => exact .inr (.inr (.inr ⟨bs, rfl⟩))

end Sys2Proof.Machine

/-! Where a catch-up leaves the drives (spec/40_clock_converter.md R137 to R140, R145). Everything nested in a catch-up carries
its target, so a slot is either left as it was or brought to the target and run to its stop value; the slot on whose behalf the
work is done is at the target already, and only its own ticks move it. -/

namespace Sys2Proof.Machine

/-! Entering a slot. -/

/-- The stop value and carry of slot `d` after the conversion up to `T` (40_clock_converter.md R138). -/
def State.credit (st : State) (d : Slot) (T : Clock) : Clock × BitVec 16 :=
  convert st.params (st.drive d).stopClk (st.drive d).frac (st.drive d).sf (st.params.sdiff T (st.drive d).lastSync).toNat

/-- The registers a conversion writes, replaced (40_clock_converter.md R137). -/
def State.recredited (st : State) (d : Slot) (T : Clock) (c : Clock × BitVec 16) : State :=
  st.updDrive d (fun r => { r with lastSync := T, stopClk := c.1, frac := c.2 })

/-- What a catch-up to `T` writes before it lets slot `d` run (40_clock_converter.md R137). -/
def State.credited (st : State) (d : Slot) (T : Clock) : State := st.recredited d T (st.credit d T)

section Enter

variable {st : State} {s : Slot} {T : Clock}

@[simp] theorem State.recredited_params (c : Clock × BitVec 16) : (st.recredited s T c).params = st.params := rfl
@[simp] theorem State.credited_params : (st.credited s T).params = st.params := rfl

theorem State.recredited_drive_same (c : Clock × BitVec 16) : (st.recredited s T c).drive s =
    { st.drive s with lastSync := T, stopClk := c.1, frac := c.2 } := State.updDrive_drive_same ..

theorem State.credited_drive_same : (st.credited s T).drive s =
    { st.drive s with lastSync := T, stopClk := (st.credit s T).1, frac := (st.credit s T).2 } :=
  State.recredited_drive_same _

/-- The room before the stop value after a conversion, within half the clock's range. -/
theorem sdiff_credit (h : st.params.sdiff (st.drive s).stopClk (st.drive s).localClk + (((st.drive s).frac.toNat
      + (st.params.sdiff T (st.drive s).lastSync).toNat * (st.drive s).sf.toNat) / 65536 : Nat)
        < 2 ^ (st.params.clkW.bits - 1)) :
    st.params.sdiff (st.credit s T).1 (st.drive s).localClk =
      st.params.sdiff (st.drive s).stopClk (st.drive s).localClk + (((st.drive s).frac.toNat
        + (st.params.sdiff T (st.drive s).lastSync).toNat * (st.drive s).sf.toNat) / 65536 : Nat) := sdiff_convert h

theorem State.credited_drive_ne {x : Slot} (h : x ≠ s) : (st.credited s T).drive x = st.drive x :=
  State.updDrive_drive_ne _ _ h

/-- A slot that is enabled, not jammed and behind is credited and runs (40_clock_converter.md R137). -/
theorem catchUpWith_entered (catchIt : CatchUp) (hen : (st.drive s).en = true) (hjam : (st.drive s).jam = false)
    (hbehind : 0 < st.params.sdiff T (st.drive s).lastSync) :
    catchUpWith catchIt s T st = run catchIt s (runLimit st.params) (st.credited s T) := by
  rcases catchUpWith_cases catchIt s T st with ⟨h, _⟩ | ⟨_, _, _, e⟩
  · rw [hen, hjam] at h
    simp only [Bool.true_eq_false, Bool.false_eq_true, false_or] at h
    omega
  · exact e

/-- A detached or jammed slot, or one that is not behind, is left alone (40_clock_converter.md R137). -/
theorem catchUpTo_idle (n : Nat)
    (h : (st.drive s).en = false ∨ (st.drive s).jam = true ∨ st.params.sdiff T (st.drive s).lastSync ≤ 0) :
    catchUpTo n s T st = st := by
  cases n with
  | zero => rfl
  | succ n =>
    rcases catchUpWith_cases (catchUpTo n) s T st with ⟨_, e⟩ | ⟨hen, hjam, hbehind, _⟩
    · exact e
    · rw [hen, hjam] at h
      simp only [Bool.true_eq_false, Bool.false_eq_true, false_or] at h
      omega

/-- `Run` of a slot that does not run does nothing, whatever it may start (40_clock_converter.md R139). -/
theorem run_idle (catchIt : CatchUp) (fuel : Nat) (h : st.running s = false) : run catchIt s fuel st = st := by
  cases fuel with
  | zero => rfl
  | succ fuel => rw [run, if_neg (by simp [h])]

/-- `Run` of a slot that runs starts an instruction (40_clock_converter.md R139). -/
theorem run_running (catchIt : CatchUp) (fuel : Nat) (h : st.running s = true) :
    run catchIt s (fuel + 1) st = run catchIt s fuel (execInstr catchIt s st) := by rw [run, if_pos h]

end Enter

/-! One instruction. -/

/-- The agent of slot `s` asked once: it sees its interrupt line, and an answer fixed in advance is used up
(40_clock_converter.md R141). -/
def State.asked (st : State) (s : Slot) : State :=
  st.updAgent s (fun a => { a with script := a.script.tail, history := .asked (st.chip s).irq :: a.history })

section Instr

variable {st : State} {s : Slot} (catchIt : CatchUp)

@[simp] theorem State.asked_params : (st.asked s).params = st.params := rfl
@[simp] theorem State.asked_drive (x : Slot) : (st.asked s).drive x = st.drive x := rfl

/-- An answer that jams adds no tick (40_clock_converter.md R143). -/
theorem execInstr_jam {addr : BitVec 16} (h : (st.cpuStep s).1 = .jam addr) : execInstr catchIt s st =
    ((st.asked s).updDrive s (fun d => { d with jam := true, jamAddr := addr })).raise .processorJammed s := by
  unfold execInstr
  dsimp only
  rw [h, State.cpuStep_snd]
  rfl

/-- Any other answer is its ticks and then its accesses (40_clock_converter.md R142). -/
theorem execInstr_instr {k : Nat} {body : Body} (h : (st.cpuStep s).1 = .instr k body) : execInstr catchIt s st =
    runBody catchIt s body ((st.asked s).ticked s (st.params.legalTicks k)) := by
  unfold execInstr
  dsimp only
  rw [h, State.cpuStep_snd]
  rfl

end Instr

/-! Slots left as they were or settled at the target. -/

/-- No instruction takes no tick or passes half the clock's range (40_clock_converter.md R139; log entry 8). -/
def ShortInstr (P : Params) : Prop := 1 ≤ P.kMax ∧ P.kMax ≤ 2 ^ (P.clkW.bits - 1)

/-- Slot `x` over work to the target `T`: left as it was, or it was behind `T`, is at `T`, and ran to its stop value. -/
def SettledAt (T : Clock) (x : Slot) (s t : State) : Prop :=
  t.drive x = s.drive x ∨
    (0 < s.params.sdiff T (s.drive x).lastSync ∧ (t.drive x).lastSync = T ∧
      (ShortInstr s.params → Ran s.params (s.drive x) (t.drive x)))

/-- Every slot but `y` is settled at `T`. -/
structure SettledBut (T : Clock) (y : Slot) (s t : State) : Prop where
  params : t.params = s.params
  others : ∀ x, x ≠ y → SettledAt T x s t

/-- Every slot is settled at `T`. -/
structure Settled (T : Clock) (s t : State) : Prop where
  params : t.params = s.params
  all : ∀ x, SettledAt T x s t

/-- A catch-up to `T` settles every slot. -/
def Settles (T : Clock) (catchIt : CatchUp) : Prop := ∀ d st, d ≠ 0 → Settled T st (catchIt d T st)

section Settled

variable {T : Clock} {s t u : State} {x y : Slot}

/-- A slot that is at the target is left as it is (40_clock_converter.md R145). -/
theorem SettledAt.eq_of_synced (h : SettledAt T x s t) (hT : (s.drive x).lastSync = T) : t.drive x = s.drive x := by
  rcases h with h | ⟨hbehind, _⟩
  · exact h
  · rw [hT, Params.sdiff_self] at hbehind
    exact absurd hbehind (lt_irrefl 0)

/-- A slot that was behind the target and is at it has run. -/
theorem SettledAt.ran (h : SettledAt T x s t) (hbehind : 0 < s.params.sdiff T (s.drive x).lastSync)
    (harrived : (t.drive x).lastSync = T) (hshort : ShortInstr s.params) :
    Ran s.params (s.drive x) (t.drive x) := by
  rcases h with h | ⟨_, _, hran⟩
  · rw [← h, harrived, Params.sdiff_self] at hbehind
    exact absurd hbehind (lt_irrefl 0)
  · exact hran hshort

theorem SettledAt.trans (hp : t.params = s.params) (h1 : SettledAt T x s t) (h2 : SettledAt T x t u) :
    SettledAt T x s u := by
  rcases h1 with h1 | ⟨hbehind, hT, hran⟩
  · rw [SettledAt, hp, h1] at h2
    exact h2
  · rw [SettledAt, h2.eq_of_synced hT]
    exact .inr ⟨hbehind, hT, hran⟩

theorem SettledBut.trans (h1 : SettledBut T y s t) (h2 : SettledBut T y t u) : SettledBut T y s u :=
  ⟨h2.params.trans h1.params, fun x hx => (h1.others x hx).trans h1.params (h2.others x hx)⟩

theorem SettledBut.of_drive (hp : t.params = s.params) (hd : ∀ x, x ≠ y → t.drive x = s.drive x) : SettledBut T y s t :=
  ⟨hp, fun x hx => .inl (hd x hx)⟩

theorem SettledBut.of_drive_trans (h : SettledBut T y t u) (s : State) (hp : t.params = s.params)
    (hd : ∀ x, x ≠ y → t.drive x = s.drive x) : SettledBut T y s u := (SettledBut.of_drive hp hd).trans h

theorem Settled.but (h : Settled T s t) : SettledBut T y s t := ⟨h.params, fun x _ => h.all x⟩

theorem Settled.of_drive (hp : t.params = s.params) (hd : ∀ x, t.drive x = s.drive x) : Settled T s t :=
  ⟨hp, fun x => .inl (hd x)⟩

theorem Settled.refl (s : State) : Settled T s s := .of_drive rfl fun _ => rfl

theorem Settled.trans (h1 : Settled T s t) (h2 : Settled T t u) : Settled T s u :=
  ⟨h2.params.trans h1.params, fun x => (h1.all x).trans h1.params (h2.all x)⟩

end Settled

section Nested

variable {T : Clock} {catchIt : CatchUp} {st : State} {s : Slot}

theorem foldl_settled (hc : Settles T catchIt) {l : List Slot} (hl : ∀ d ∈ l, d ≠ 0) (st : State) :
    Settled T st (l.foldl (fun s d => catchIt d T s) st) := by
  induction l generalizing st with
  | nil => exact .refl st
  | cons a l ih =>
    exact (hc a st (hl a (List.mem_cons_self ..))).trans (ih (fun d hd => hl d (List.mem_cons_of_mem a hd)) _)

theorem ne_zero_of_mem_driveSlots {P : Params} {d : Slot} (h : d ∈ P.driveSlots) : d ≠ 0 :=
  Params.isDrive_ne_zero ((P.mem_driveSlots d).mp h)

theorem catchAllExcept_settled (hc : Settles T catchIt) : Settled T st (catchAllExcept catchIt s T st) :=
  foldl_settled hc (fun _ hd => ne_zero_of_mem_driveSlots (List.mem_of_mem_filter hd)) st

/-- A bus notification changes no drive register beyond the catch-ups it makes (42_bus_arbiter.md R177). -/
theorem outChg_settled (hc : Settles T catchIt) {byte : Byte} {act : Bool} :
    Settled T st (outChg catchIt s byte act T st) := by
  refine (catchAllExcept_settled (s := s) hc).trans ?_
  rcases outChg_cases catchIt s byte act T st with ⟨_, _, e⟩ | ⟨_, e⟩ <;> rw [e]
  all_goals exact .of_drive (State.resolve_params _) fun x => State.resolve_drive _ x

theorem storeOne_settled (hc : Settles T catchIt) {r : ChipReg} {b : Byte} : Settled T st (storeOne catchIt s r b T st) := by
  unfold storeOne
  refine Settled.trans (t := st.updChip s (fun c => c.store r b)) (.of_drive rfl fun _ => rfl) ?_
  split
  · exact outChg_settled hc
  · exact .refl _

theorem chipStore_settled (hc : Settles T catchIt) {r : ChipReg} {b : Byte} {rmw : Bool} :
    Settled T st (chipStore catchIt s r b rmw T st) := by
  unfold chipStore
  cases rmw with
  | false => exact storeOne_settled hc
  | true => exact (storeOne_settled hc).trans (storeOne_settled hc)

end Nested

/-! The slot on whose behalf the work is done. -/

/-- A drive over the accesses of a body: only its local clock moves, by idle-loop jumps, and never past the stop value
(40_clock_converter.md R144). -/
def Coasted (P : Params) (r r' : Drive) : Prop :=
  ∃ l, r' = { r with localClk := l } ∧
    (l = r.localClk ∨ (0 ≤ P.sdiff r.stopClk l ∧ P.sdiff r.stopClk l ≤ P.sdiff r.stopClk r.localClk))

/-- A drive over one instruction that was due: it jams, or only its local clock moves, towards the stop value and past it by
less than `K_MAX` (40_clock_converter.md R139, R142, R143). -/
def Stepped (P : Params) (r r' : Drive) : Prop :=
  (∃ addr, r' = { r with jam := true, jamAddr := addr }) ∨
    ∃ l, r' = { r with localClk := l } ∧ (ShortInstr P →
      P.sdiff r.stopClk l < P.sdiff r.stopClk r.localClk ∧ -(P.kMax : Int) < P.sdiff r.stopClk l)

/-- A drive over a run: the credit stays, and the run ends by a jam, or at the stop value or past it by less than `K_MAX`
(40_clock_converter.md R139). -/
structure RanOut (P : Params) (fuel : Nat) (r r' : Drive) : Prop where
  lastSync : r'.lastSync = r.lastSync
  stopClk : r'.stopClk = r.stopClk
  ends : ShortInstr P → r.en = true → r.jam = false → P.sdiff r.stopClk r.localClk ≤ fuel →
    r'.jam = true ∨ (P.sdiff r'.stopClk r'.localClk ≤ 0 ∧ (r' = r ∨ -(P.kMax : Int) < P.sdiff r'.stopClk r'.localClk))

theorem Coasted.refl (P : Params) (r : Drive) : Coasted P r r := ⟨r.localClk, rfl, .inl rfl⟩

theorem Coasted.trans {P : Params} {a b c : Drive} (h1 : Coasted P a b) (h2 : Coasted P b c) : Coasted P a c := by
  obtain ⟨l, rfl, h1⟩ := h1
  obtain ⟨m, rfl, h2⟩ := h2
  refine ⟨m, rfl, ?_⟩
  rcases h2 with h2 | ⟨hlow, hhigh⟩
  · rw [h2]
    exact h1
  · rcases h1 with rfl | ⟨_, h1⟩
    · exact .inr ⟨hlow, hhigh⟩
    · exact .inr ⟨hlow, hhigh.trans h1⟩

theorem Coasted.lastSync {P : Params} {r r' : Drive} (h : Coasted P r r') : r'.lastSync = r.lastSync := by
  obtain ⟨l, rfl, _⟩ := h
  rfl

theorem legalTicks_pos (P : Params) (k : Nat) : 1 ≤ P.legalTicks k := Nat.le_max_left _ _

theorem legalTicks_le {P : Params} (h : 1 ≤ P.kMax) (k : Nat) : P.legalTicks k ≤ P.kMax :=
  Nat.max_le.mpr ⟨h, Nat.min_le_right _ _⟩

section Own

variable {T : Clock} {catchIt : CatchUp} {st : State} {s : Slot}

/-- An idle-loop jump coasts (40_clock_converter.md R144). -/
theorem idleTrap_coasted (T : Clock) (s : Slot) (st : State) : SettledBut T s st (idleTrap s st) ∧
    Coasted st.params (st.drive s) ((idleTrap s st).drive s) := by
  cases hrun : st.running s with
  | false =>
    rw [idleTrap_idle hrun]
    exact ⟨.of_drive rfl fun _ _ => rfl, .refl ..⟩
  | true =>
    obtain ⟨_, _, hroom⟩ := (st.running_iff s).mp hrun
    rw [idleTrap_running hrun]
    generalize hn : idleTicks (st.chip s) (st.params.sdiff (st.drive s).stopClk (st.drive s).localClk).toNat = n
    have hle := hn ▸ idleTicks_le (st.chip s) (st.params.sdiff (st.drive s).stopClk (st.drive s).localClk).toNat
    refine ⟨.of_drive rfl fun x hx => State.ticked_drive_ne hx, _, State.ticked_drive_same, .inr ?_⟩
    have hrange : (0 : Int) < 2 ^ (st.params.clkW.bits - 1) := by positivity
    rw [Params.sdiff_addClk] <;> omega

/-- One word of a body that is no read (30_encoding.md R111). -/
theorem bodyAct_coasted (hc : Settles T catchIt) (hT : (st.drive s).lastSync = T) (a : BodyAct) :
    SettledBut T s st (bodyAct catchIt s a st) ∧ Coasted st.params (st.drive s) ((bodyAct catchIt s a st).drive s) := by
  cases a with
  | wr r rmw b =>
    have h : Settled T st (bodyAct catchIt s (.wr r rmw b) st) := by
      simp only [bodyAct, hT]
      exact chipStore_settled hc
    rw [(h.all s).eq_of_synced hT]
    exact ⟨h.but, .refl ..⟩
  | signal line e => exact ⟨.of_drive rfl fun _ _ => rfl, .refl ..⟩
  | idletrap => exact idleTrap_coasted T s st

/-- The accesses of a body (40_clock_converter.md R142). -/
theorem runBody_coasted (hc : Settles T catchIt) (hs : s ≠ 0) (body : Body) (st : State) (hT : (st.drive s).lastSync = T) :
    SettledBut T s st (runBody catchIt s body st) ∧
      Coasted st.params (st.drive s) ((runBody catchIt s body st).drive s) := by
  induction body generalizing st with
  | done => exact ⟨.of_drive rfl fun _ _ => rfl, .refl ..⟩
  | read r next ih =>
    simp only [runBody, chipRead_drive hs]
    obtain ⟨hothers, hown⟩ := ih ((st.chip s).readValue r st.bus (st.part s).paIn)
      ((st.updPart s (fun x => { x with
        chip := x.chip.afterRead r
        rmwVal := (st.chip s).readValue r st.bus (st.part s).paIn })).tell s
          (.gotByte ((st.chip s).readValue r st.bus (st.part s).paIn))) hT
    exact ⟨hothers.of_drive_trans st rfl fun _ _ => rfl, hown⟩
  | act a next ih =>
    obtain ⟨hothers, hown⟩ := bodyAct_coasted hc hT a
    obtain ⟨hothers', hown'⟩ := ih _ (hown.lastSync.trans hT)
    rw [hothers.params] at hown'
    exact ⟨hothers.trans hothers', hown.trans hown'⟩

/-- One instruction of a running slot (40_clock_converter.md R142, R143). -/
theorem execInstr_stepped (hc : Settles T catchIt) (hs : s ≠ 0) (hT : (st.drive s).lastSync = T)
    (hroom : 0 < st.params.sdiff (st.drive s).stopClk (st.drive s).localClk) :
    SettledBut T s st (execInstr catchIt s st) ∧ Stepped st.params (st.drive s) ((execInstr catchIt s st).drive s) := by
  cases hans : (st.cpuStep s).1 with
  | jam addr =>
    rw [execInstr_jam catchIt hans]
    refine ⟨.of_drive rfl fun x hx => ?_, .inl ⟨addr, ?_⟩⟩
    · rw [State.raise_drive, State.updDrive_drive_ne _ _ hx, State.asked_drive]
    · rw [State.raise_drive, State.updDrive_drive_same, State.asked_drive]
  | instr k body =>
    rw [execInstr_instr catchIt hans]
    generalize hk : st.params.legalTicks k = n
    have hown : ((st.asked s).ticked s n).drive s =
        { st.drive s with localClk := st.params.addClk (st.drive s).localClk (BitVec.ofNat 64 n) } :=
      State.ticked_drive_same
    have hothers : SettledBut T s st ((st.asked s).ticked s n) := .of_drive rfl fun x hx => State.ticked_drive_ne hx
    obtain ⟨hothers', l, hown', hl⟩ := runBody_coasted hc hs body _ (by rw [hown]; exact hT)
    rw [hown] at hown' hl
    refine ⟨hothers.trans hothers', .inr ⟨l, hown', fun ⟨hpos, hshort⟩ => ?_⟩⟩
    have hn1 : 1 ≤ n := hk ▸ legalTicks_pos st.params k
    have hn2 : n ≤ st.params.kMax := hk ▸ legalTicks_le hpos k
    have hticks := Params.sdiff_addClk (P := st.params) (a := (st.drive s).stopClk) (b := (st.drive s).localClk) (n := n)
      (by zify at hshort hn2; omega)
    simp only [State.ticked_params, State.asked_params] at hl
    rcases hl with rfl | ⟨hlow, hhigh⟩
    · omega
    · omega

/-- The instructions of a slot up to its stop value (40_clock_converter.md R139). -/
theorem run_ranOut (hc : Settles T catchIt) (hs : s ≠ 0) (fuel : Nat) (st : State) (hT : (st.drive s).lastSync = T) :
    SettledBut T s st (run catchIt s fuel st) ∧ RanOut st.params fuel (st.drive s) ((run catchIt s fuel st).drive s) := by
  induction fuel generalizing st with
  | zero => exact ⟨.of_drive rfl fun _ _ => rfl, rfl, rfl, fun _ _ _ hroom => .inr ⟨hroom, .inl rfl⟩⟩
  | succ fuel ih =>
    cases hrun : st.running s with
    | false =>
      rw [run_idle catchIt _ hrun]
      refine ⟨.of_drive rfl fun _ _ => rfl, rfl, rfl, fun _ hen hjam _ => .inr ⟨?_, .inl rfl⟩⟩
      simpa [hen, hjam] using (st.not_running_iff s).mp hrun
    | true =>
      obtain ⟨_, hjam, hroom⟩ := (st.running_iff s).mp hrun
      rw [run_running catchIt _ hrun]
      obtain ⟨hothers, hown⟩ := execInstr_stepped hc hs hT hroom
      rcases hown with ⟨addr, hown⟩ | ⟨l, hown, hl⟩
      · rw [run_idle catchIt _ ((State.not_running_iff ..).mpr (by simp [hown]))]
        exact ⟨hothers, by rw [hown], by rw [hown], fun _ _ _ _ => .inl (by rw [hown])⟩
      · obtain ⟨hothers', hlast, hstop, hends⟩ := ih (execInstr catchIt s st) (by rw [hown]; exact hT)
        rw [hothers.params, hown] at hends
        rw [hown] at hlast hstop
        refine ⟨hothers.trans hothers', hlast, hstop, fun hshort hen _ hfuel => ?_⟩
        obtain ⟨hless, hmore⟩ := hl hshort
        rcases hends hshort hen hjam (by simp only; omega) with h | ⟨h, h' | h'⟩
        · exact .inl h
        · refine .inr ⟨h, .inr ?_⟩
          rw [h']
          exact hmore
        · exact .inr ⟨h, .inr h'⟩

end Own

/-! Catch-ups. -/

/-- No room is more than the instructions that a run may start. -/
theorem sdiff_le_runLimit (P : Params) (x y : Clock) : P.sdiff x y ≤ runLimit P := by
  obtain ⟨_, _, _, hhigh⟩ := P.sdiff_spec x y
  rw [runLimit]
  push_cast
  exact hhigh.le.trans (pow_le_pow_right₀ (by decide) (Nat.sub_le _ _))

/-- A drive that ran out from its credit has run as the statements say it (40_clock_converter.md R139). -/
theorem RanOut.ran {P : Params} {r r1 r' : Drive} {fuel : Nat} (h : RanOut P fuel r1 r') (hlocal : r1.localClk = r.localClk)
    (hen : r1.en = true) (hjam : r1.jam = false) (hjam' : r.jam = false)
    (hidle : P.sdiff r1.stopClk r1.localClk ≤ 0 → r' = r1) (hfuel : P.sdiff r1.stopClk r1.localClk ≤ fuel)
    (hshort : ShortInstr P) : Ran P r r' := by
  rw [Ran, h.stopClk, ← hlocal]
  refine ⟨fun hroom => ?_, fun hroom => ?_⟩
  · rw [hidle hroom]
    exact ⟨rfl, hjam.trans hjam'.symm⟩
  · rcases h.ends hshort hen hjam hfuel with h' | ⟨hlow, h' | hhigh⟩
    · exact .inl h'
    · rw [h'] at hlow
      omega
    · have hk := hshort.2
      zify at hk
      rw [h.stopClk] at hlow hhigh
      rw [Params.sdiff_swap (a := r1.stopClk) (b := r'.localClk) (by omega)]
      exact .inr (by omega)

theorem catchUpWith_settles {T : Clock} {catchIt : CatchUp} (hc : Settles T catchIt) : Settles T (catchUpWith catchIt) := by
  intro s st hs
  rcases catchUpWith_cases catchIt s T st with ⟨_, e⟩ | ⟨hen, hjam, hbehind, _⟩
  · rw [e]
    exact .refl st
  · rw [catchUpWith_entered catchIt hen hjam hbehind]
    have hT : ((st.credited s T).drive s).lastSync = T := by rw [State.credited_drive_same]
    obtain ⟨hothers, hown⟩ := run_ranOut hc hs (runLimit st.params) (st.credited s T) hT
    have hothers' := hothers.of_drive_trans st rfl fun x hx => State.credited_drive_ne hx
    refine ⟨hothers'.params, fun x => ?_⟩
    by_cases hx : x = s
    · subst hx
      refine .inr ⟨hbehind, hown.lastSync.trans hT,
        fun hshort => hown.ran ?_ ?_ ?_ hjam (fun hroom => ?_) (sdiff_le_runLimit ..) hshort⟩
      · rw [State.credited_drive_same]
      · rw [State.credited_drive_same]
        exact hen
      · rw [State.credited_drive_same]
        exact hjam
      · rw [run_idle catchIt _ ((State.not_running_iff ..).mpr (.inr (.inr hroom)))]
    · exact hothers'.others x hx

theorem catchUpTo_settles (T : Clock) (n : Nat) : Settles T (catchUpTo n) := by
  induction n with
  | zero => exact fun _ st _ => .refl st
  | succ n ih => exact catchUpWith_settles ih

/-- A catch-up to `T` settles every slot, at every depth of nesting (40_clock_converter.md R137, R139, R145). -/
theorem catchUp_settles (T : Clock) : Settles T catchUp := catchUpTo_settles T nestLimit

end Sys2Proof.Machine

/-! What CATCHUP and SYNCALL do to the drives (spec/40_clock_converter.md R137 to R140): every drive that was behind is at the
target, holds the exact credit and has run. -/

namespace Sys2Proof.Machine

section CatchUp

variable {T : Clock} {s t : State} {x : Slot}

/-- A catch-up of a slot that is enabled, not jammed and behind is its credit and its run. -/
theorem catchUp_entered (hen : (s.drive x).en = true) (hjam : (s.drive x).jam = false)
    (hbehind : 0 < s.params.sdiff T (s.drive x).lastSync) :
    catchUp x T s = run (catchUpTo 15) x (runLimit s.params) (s.credited x T) :=
  catchUpWith_entered (catchUpTo 15) hen hjam hbehind

/-- A slot that was behind the target and is at it holds the exact credit (40_clock_converter.md R138). -/
theorem SyncedTo.credit (h : SyncedTo T s t) (hbehind : 0 < s.params.sdiff T (s.drive x).lastSync)
    (harrived : (t.drive x).lastSync = T) :
    ((t.drive x).stopClk, (t.drive x).frac) = s.credit x T := by
  rcases (h.2 x).2 with ⟨hsame, _⟩ | ⟨_, _, hcredit⟩
  · rw [← hsame, harrived, Params.sdiff_self] at hbehind
    exact absurd hbehind (lt_irrefl 0)
  · exact hcredit

/-- The same credit, as the quotient and the remainder of the exact sum. -/
theorem SyncedTo.credit_toNat (h : SyncedTo T s t) (hbehind : 0 < s.params.sdiff T (s.drive x).lastSync)
    (harrived : (t.drive x).lastSync = T) :
    let sum := (s.drive x).stopClk.toNat * 65536 + (s.drive x).frac.toNat
      + (s.params.sdiff T (s.drive x).lastSync).toNat * (s.drive x).sf.toNat
    (t.drive x).stopClk.toNat = sum / 65536 % 2 ^ s.params.clkW.bits ∧ (t.drive x).frac.toNat = sum % 65536 := by
  have hcredit := Prod.ext_iff.mp (h.credit hbehind harrived)
  exact ⟨(congrArg BitVec.toNat hcredit.1).trans (convert_stop_toNat ..),
    (congrArg BitVec.toNat hcredit.2).trans (convert_frac_toNat ..)⟩

end CatchUp

/-- CATCHUP of a drive slot is a catch-up to the operand cut to CLK_W bits (40_clock_converter.md R137; log entry 2). -/
theorem exec_catchup_live {s : State} {d : Slot} (target : Clock) (hlive : s.err.getLsbD 0 = false)
    (hd : s.params.isDrive d = true) : exec (.catchup d target) s = .next (catchUp d (s.params.wrap target) s) :=
  exec_drive_live (f := fun st => catchUp d (st.clock target) st) rfl hlive hd

/-- Settles O23: the catch-up arrives, its credit is the conversion, and the frame is the one of every catch-up. -/
theorem catchupCreditsTheClosedForm : Obligations.CatchupCreditsTheClosedForm := by
  intro s d target hlive hd
  have hd0 := Params.isDrive_ne_zero hd
  refine ⟨fun hen hjam hbehind => ?_, fun hidle => ?_⟩
  · have harrived := catchUp_arrives d hd0 _ s hen hjam hbehind
    exact ⟨_, exec_catchup_live target hlive hd, catchUp_frame d _ s hd, harrived,
      (catchUp_syncedTo d hd0 _ s).credit_toNat hbehind harrived⟩
  · exact (exec_catchup_live target hlive hd).trans (congrArg _ (catchUpTo_idle nestLimit hidle))

/-- A legal parameter set has instructions of at least one tick (00_scope.md R6). -/
theorem kMax_pos_of_legal {P : Params} (h : P.legal = true) : 1 ≤ P.kMax := by
  simp only [Params.legal, Bool.and_eq_true, decide_eq_true_eq] at h
  obtain ⟨⟨⟨⟨⟨_, hk⟩, _⟩, _⟩, _⟩, _⟩ := h
  exact hk

/-- Settles O25: the slot is settled by its own catch-up, and when its stop value is not later than its clock it does not run. -/
theorem catchupOvershootsByLessThanAnInstruction : Obligations.CatchupOvershootsByLessThanAnInstruction := by
  intro s d target hlegal hk hlive hd hen hjam hbehind
  have hd0 := Params.isDrive_ne_zero hd
  refine ⟨_, exec_catchup_live target hlive hd, ?_, fun hroom => ?_⟩
  · exact ((catchUp_settles _ d s hd0).all d).ran hbehind (catchUp_arrives d hd0 _ s hen hjam hbehind)
      ⟨kMax_pos_of_legal hlegal, hk⟩
  · rw [catchUp_entered hen hjam hbehind] at hroom ⊢
    obtain ⟨_, hown⟩ := run_ranOut (catchUpTo_settles (s.params.wrap target) 15) hd0 (runLimit s.params)
      (s.credited d (s.params.wrap target)) (by rw [State.credited_drive_same])
    have hidle : (s.credited d (s.params.wrap target)).running d = false := by
      rw [State.not_running_iff]
      rw [hown.stopClk] at hroom
      rw [State.credited_drive_same] at hroom ⊢
      exact .inr (.inr hroom)
    rw [run_idle _ _ hidle, State.credited_drive_same]
    rfl

/-! Catching several drives up (40_clock_converter.md R140). -/

section Several

variable {T : Clock} {s : State} {l : List Slot} {x : Slot}

/-- Each slot of the list that is enabled, not jammed and behind arrives: in its own catch-up, or nested in an earlier one. -/
theorem foldl_catchUp_arrives (hl : ∀ d ∈ l, d ≠ 0) (hx : x ∈ l) (hen : (s.drive x).en = true)
    (hjam : (s.drive x).jam = false) (hbehind : 0 < s.params.sdiff T (s.drive x).lastSync) :
    ((l.foldl (fun u d => catchUp d T u) s).drive x).lastSync = T := by
  induction l generalizing s with
  | nil => cases hx
  | cons a l ih =>
    have ha := hl a (List.mem_cons_self ..)
    have hl' : ∀ d ∈ l, d ≠ 0 := fun d hd => hl d (List.mem_cons_of_mem a hd)
    have hfirst := catchUp_settles T a s ha
    rw [List.foldl_cons]
    rcases hfirst.all x with hsame | ⟨_, hT, _⟩
    · rcases List.mem_cons.mp hx with rfl | hx
      · have harrived := catchUp_arrives x ha T s hen hjam hbehind
        rw [hsame] at harrived
        rw [harrived, Params.sdiff_self] at hbehind
        exact absurd hbehind (lt_irrefl 0)
      · exact ih hl' hx (by rw [hsame]; exact hen) (by rw [hsame]; exact hjam)
          (by rw [hfirst.params, hsame]; exact hbehind)
    · rw [((foldl_settled (catchUp_settles T) hl' (catchUp a T s)).all x).eq_of_synced hT]
      exact hT

/-- When no slot of the list is to be caught up, nothing changes. -/
theorem foldl_catchUp_idle (hidle : ∀ d ∈ l, (s.drive d).en = false ∨ (s.drive d).jam = true ∨
    s.params.sdiff T (s.drive d).lastSync ≤ 0) : l.foldl (fun u d => catchUp d T u) s = s := by
  induction l with
  | nil => rfl
  | cons a l ih =>
    have hfirst : catchUp a T s = s := catchUpTo_idle nestLimit (hidle a (List.mem_cons_self ..))
    rw [List.foldl_cons, hfirst]
    exact ih fun d hd => hidle d (List.mem_cons_of_mem a hd)

theorem foldl_catchUp_syncedTo (hl : ∀ d ∈ l, d ≠ 0) (s : State) : SyncedTo T s (l.foldl (fun u d => catchUp d T u) s) :=
  (foldl_catch_keeps (catchUp_keeps (syncedTo_inv T s)) l hl s (.refl T s)).1

theorem foldl_catchUp_caughtUp (hl : ∀ d ∈ l, d ≠ 0) (hall : ∀ d, s.params.isDrive d = true → d ≠ x → d ∈ l) :
    CaughtUpBut x T s (l.foldl (fun u d => catchUp d T u) s) := by
  intro d hd hdx hen hjam hbehind
  have harrived := foldl_catchUp_arrives hl (hall d hd hdx) hen hjam hbehind
  exact ⟨harrived, (foldl_catchUp_syncedTo hl s).credit_toNat hbehind harrived⟩

theorem foldl_catchUp_ran (hl : ∀ d ∈ l, d ≠ 0) (hall : ∀ d, s.params.isDrive d = true → d ≠ x → d ∈ l) :
    RanBut x T s (l.foldl (fun u d => catchUp d T u) s) := by
  intro hpos hshort d hd hdx hen hjam hbehind
  exact ((foldl_settled (catchUp_settles T) hl s).all d).ran hbehind
    (foldl_catchUp_arrives hl (hall d hd hdx) hen hjam hbehind) ⟨hpos, hshort⟩

end Several

/-- Settles O28: SYNCALL catches the drive slots up one after the other. -/
theorem syncallBringsEveryDriveToTheTarget : Obligations.SyncallBringsEveryDriveToTheTarget := by
  intro s target hlive
  have hl : ∀ d ∈ s.params.driveSlots, d ≠ 0 := fun _ => ne_zero_of_mem_driveSlots
  have hall : ∀ d, s.params.isDrive d = true → d ≠ 0 → d ∈ s.params.driveSlots :=
    fun d hd _ => (s.params.mem_driveSlots d).mpr hd
  refine ⟨_, exec_command_live rfl hlive, catchAll_frame _ s, foldl_catchUp_caughtUp hl hall, foldl_catchUp_ran hl hall,
    fun hnobody => foldl_catchUp_idle fun d hd => hnobody d ((s.params.mem_driveSlots d).mp hd) (hl d hd)⟩

end Sys2Proof.Machine

/-! The depth of nesting (spec/40_clock_converter.md R145): a catch-up brings a slot to its target before it runs it, so what
nests inside finds one slot fewer behind; two catch-ups that agree one level down agree. -/

namespace Sys2Proof.Machine

/-! Agreement of the work nested in two catch-ups. -/

/-- Two catch-ups to `T` do the same to every slot that `D` admits, in every state with `I`. -/
def AgreeOn (T : Clock) (D : Slot → Prop) (I : State → Prop) (f g : CatchUp) : Prop :=
  ∀ d st, D d → I st → f d T st = g d T st

section Agree

variable {T : Clock} {D A : Slot → Prop} {I : State → Prop} {f g : CatchUp} {s : Slot}

theorem foldl_agree (hf : CatchKeeps T D I f) (hfg : AgreeOn T D I f g) {l : List Slot} (hl : ∀ d ∈ l, D d) {st : State}
    (h : I st) : l.foldl (fun u d => f d T u) st = l.foldl (fun u d => g d T u) st := by
  induction l generalizing st with
  | nil => rfl
  | cons a l ih =>
    have ha := hl a (List.mem_cons_self ..)
    rw [List.foldl_cons, List.foldl_cons, ← hfg a st ha h]
    exact ih (fun d hd => hl d (List.mem_cons_of_mem a hd)) (hf a st ha h).1

theorem outChg_agree (hi : CatchInv T D A I) (hf : CatchKeeps T D I f) (hfg : AgreeOn T D I f g) (byte : Byte) (act : Bool)
    {st : State} (h : I st) : outChg f s byte act T st = outChg g s byte act T st := by
  have hexcept : catchAllExcept f s T st = catchAllExcept g s T st :=
    foldl_agree hf hfg (fun d hd => hi.drives st h d (List.mem_of_mem_filter hd)) h
  rw [outChg, outChg, hexcept]

theorem storeOne_agree (hi : CatchInv T D A I) (hf : CatchKeeps T D I f) (hfg : AgreeOn T D I f g) (hs : A s) (r : ChipReg)
    (b : Byte) {st : State} (h : I st) : storeOne f s r b T st = storeOne g s r b T st := by
  unfold storeOne
  dsimp only
  rw [outChg_agree hi hf hfg _ _ (hi.store s st r b hs h)]

theorem chipStore_agree (hi : CatchInv T D A I) (hf : CatchKeeps T D I f) (hfg : AgreeOn T D I f g) (hs : A s) (r : ChipReg)
    (b : Byte) (rmw : Bool) {st : State} (h : I st) : chipStore f s r b rmw T st = chipStore g s r b rmw T st := by
  unfold chipStore
  cases rmw with
  | false => exact storeOne_agree hi hf hfg hs r b h
  | true =>
    obtain ⟨hkept, _⟩ := storeOne_keeps hi hf hs r (st.part s).rmwVal st h
    dsimp only
    rw [← storeOne_agree hi hf hfg hs r _ h]
    exact storeOne_agree hi hf hfg hs r b hkept

theorem bodyAct_agree (hi : CatchInv T D A I) (hf : CatchKeeps T D I f) (hfg : AgreeOn T D I f g) (hs : A s) (a : BodyAct)
    {st : State} (h : I st) (hT : (st.drive s).lastSync = T) : bodyAct f s a st = bodyAct g s a st := by
  cases a with
  | wr r rmw b =>
    simp only [bodyAct, hT]
    exact chipStore_agree hi hf hfg hs r b rmw h
  | signal line e => rfl
  | idletrap => rfl

/-- The accesses of a body (40_clock_converter.md R142). -/
theorem runBody_agree (hi : CatchInv T D A I) (hf : CatchKeeps T D I f) (hfg : AgreeOn T D I f g) (hs : A s) (hs0 : s ≠ 0)
    (body : Body) {st : State} (h : I st) (hT : (st.drive s).lastSync = T) : runBody f s body st = runBody g s body st := by
  induction body generalizing st with
  | done => rfl
  | read r next ih =>
    simp only [runBody, chipRead_drive hs0]
    exact ih _ (hi.hear s _ _ hs (hi.read s st r _ hs h)) hT
  | act a next ih =>
    obtain ⟨hkept, hsync⟩ := bodyAct_keeps hi hf hs a st h hT
    rw [runBody, runBody, ← bodyAct_agree hi hf hfg hs a h hT]
    exact ih hkept (hsync s hT)

theorem CatchInv.asked (hi : CatchInv T D A I) (hs : A s) {st : State} (h : I st) : I (st.asked s) :=
  hi.ask s st (st.agent s).script.tail hs h

/-- One step of the agent (40_clock_converter.md R142). -/
theorem execInstr_agree (hi : CatchInv T D A I) (hf : CatchKeeps T D I f) (hfg : AgreeOn T D I f g) (hs : A s) (hs0 : s ≠ 0)
    {st : State} (h : I st) (hT : (st.drive s).lastSync = T) : execInstr f s st = execInstr g s st := by
  cases hans : (st.cpuStep s).1 with
  | jam addr => rw [execInstr_jam f hans, execInstr_jam g hans]
  | instr k body =>
    rw [execInstr_instr f hans, execInstr_instr g hans]
    exact runBody_agree hi hf hfg hs hs0 body (hi.ticks s _ _ hs (hi.asked hs h)) (by rw [State.ticked_drive_same]; exact hT)

/-- The instructions of a slot up to its stop value (40_clock_converter.md R139). -/
theorem run_agree (hi : CatchInv T D A I) (hf : CatchKeeps T D I f) (hfg : AgreeOn T D I f g) (hs : A s) (hs0 : s ≠ 0)
    (fuel : Nat) {st : State} (h : I st) (hT : (st.drive s).lastSync = T) : run f s fuel st = run g s fuel st := by
  induction fuel generalizing st with
  | zero => rfl
  | succ fuel ih =>
    obtain ⟨hkept, hsync⟩ := execInstr_keeps hi hf hs hs0 st h hT
    rw [run, run, ← execInstr_agree hi hf hfg hs hs0 h hT, ih hkept (hsync s hT)]

end Agree

/-! How many slots are behind. -/

/-- A block with parameters `P` in which no drive slot but those of `B` is behind `T`. -/
structure BehindWithin (P : Params) (T : Clock) (B : Finset Slot) (st : State) : Prop where
  params : st.params = P
  behind : ∀ x, P.isDrive x = true → 0 < P.sdiff T (st.drive x).lastSync → x ∈ B

section Behind

variable {P : Params} {T : Clock} {B : Finset Slot} {st u : State} {s : Slot}

theorem BehindWithin.of_lastSync (h : BehindWithin P T B st) (hp : u.params = st.params)
    (hsync : ∀ x, (u.drive x).lastSync = (st.drive x).lastSync) : BehindWithin P T B u :=
  ⟨hp.trans h.params, fun x hx hbehind => h.behind x hx (hsync x ▸ hbehind)⟩

/-- A slot that is entered is behind no more (40_clock_converter.md R145). -/
theorem BehindWithin.credited (h : BehindWithin P T B st) : BehindWithin P T (B.erase s) (st.credited s T) := by
  refine ⟨h.params, fun x hx hbehind => ?_⟩
  by_cases hxs : x = s
  · subst hxs
    rw [State.credited_drive_same, Params.sdiff_self] at hbehind
    exact absurd hbehind (lt_irrefl 0)
  · rw [State.credited_drive_ne hxs] at hbehind
    exact Finset.mem_erase.mpr ⟨hxs, h.behind x hx hbehind⟩

/-- No step of a catch-up to `T` puts a slot behind `T`. -/
theorem behindWithin_inv (P : Params) (T : Clock) (B : Finset Slot) :
    CatchInv T (fun s => P.isDrive s = true) (fun _ => True) (BehindWithin P T B) where
  nonhost _ h := Params.isDrive_ne_zero h
  drives st h d hd := h.params ▸ (st.params.mem_driveSlots d).mp hd
  enter s st h _ _ _ _ :=
    have hcredited := h.credited (s := s)
    ⟨trivial, hcredited.params, fun x hx hbehind => Finset.mem_of_mem_erase (hcredited.behind x hx hbehind)⟩
  ask _ _ _ _ h := h.of_lastSync rfl fun _ => rfl
  jam s st addr _ h _ := h.of_lastSync rfl
    (updDrive_lastSync_eq st s (fun d => { d with jam := true, jamAddr := addr }) fun _ => rfl)
  ticks s st n _ h := h.of_lastSync rfl (updDrive_lastSync_eq st s
    (fun d => { d with localClk := st.params.addClk d.localClk (BitVec.ofNat 64 n) }) fun _ => rfl)
  read _ _ _ _ _ h := h.of_lastSync rfl fun _ => rfl
  hear _ _ _ _ h := h.of_lastSync rfl fun _ => rfl
  store _ _ _ _ _ h := h.of_lastSync rfl fun _ => rfl
  signal _ _ _ _ _ h := h.of_lastSync rfl fun _ => rfl
  clamp _ _ _ h _ := h.of_lastSync rfl fun _ => rfl
  notify _ _ _ _ h := h.of_lastSync (State.resolve_params _) fun _ => by rw [State.resolve_drive]; rfl

/-- Two depths that both reach the number of slots behind do the same. -/
theorem catchUpTo_agree (P : Params) (T : Clock) (n : Nat) (B : Finset Slot) (m : Nat) (hn : B.card ≤ n) (hm : B.card ≤ m) :
    AgreeOn T (fun s => P.isDrive s = true) (BehindWithin P T B) (catchUpTo n) (catchUpTo m) := by
  induction n generalizing B m with
  | zero =>
    intro d st hd h
    refine (catchUpTo_idle m (.inr (.inr (not_lt.mp fun hbehind => ?_)))).symm
    rw [Finset.card_eq_zero.mp (Nat.le_zero.mp hn)] at h
    exact absurd (h.behind d hd (h.params ▸ hbehind)) (Finset.notMem_empty d)
  | succ n ih =>
    intro d st hd h
    by_cases hidle : (st.drive d).en = false ∨ (st.drive d).jam = true ∨ st.params.sdiff T (st.drive d).lastSync ≤ 0
    · rw [catchUpTo_idle _ hidle, catchUpTo_idle _ hidle]
    · obtain ⟨hen, hjam, hbehind⟩ : (st.drive d).en = true ∧ (st.drive d).jam = false ∧
          0 < st.params.sdiff T (st.drive d).lastSync := by simpa using hidle
      have hmem := h.behind d hd (h.params ▸ hbehind)
      have hcard := Finset.card_erase_add_one hmem
      obtain ⟨m, rfl⟩ : ∃ m', m = m' + 1 := ⟨m - 1, by omega⟩
      rw [catchUpTo, catchUpTo, catchUpWith_entered _ hen hjam hbehind, catchUpWith_entered _ hen hjam hbehind]
      have hinv := behindWithin_inv P T (B.erase d)
      exact run_agree hinv (catchUpTo_keeps hinv n) (ih (B.erase d) m (by omega) (by omega)) trivial
        (Params.isDrive_ne_zero hd) _ h.credited (by rw [State.credited_drive_same])

/-- Nobody but the drive slots is ever behind. -/
theorem behindWithin_driveSlots (T : Clock) (st : State) : BehindWithin st.params T st.params.driveSlots.toFinset st :=
  ⟨rfl, fun x hx _ => List.mem_toFinset.mpr ((st.params.mem_driveSlots x).mpr hx)⟩

/-- There are at most NDRIVES drive slots, and at most 15, for a slot number has 4 bits (20_memory.md R74). -/
theorem card_driveSlots_le (P : Params) : P.driveSlots.toFinset.card ≤ min P.ndrives 15 := by
  have hcard : P.driveSlots.toFinset.card ≤ (Finset.Icc 1 (min P.ndrives 15)).card := by
    refine Finset.card_le_card_of_injOn BitVec.toNat (fun x hx => ?_) fun x _ y _ hxy => BitVec.eq_of_toNat_eq hxy
    have hx := (P.mem_driveSlots x).mp (List.mem_toFinset.mp hx)
    simp only [Params.isDrive, Bool.and_eq_true, decide_eq_true_eq] at hx
    have hlt := x.isLt
    exact Finset.mem_coe.mpr (Finset.mem_Icc.mpr ⟨hx.1, by omega⟩)
  rwa [Nat.card_Icc, Nat.add_sub_cancel] at hcard

end Behind

/-- Settles O29: both depths reach the number of drives, and so the number of slots behind. -/
theorem nestingDepthIsAtMostTheDrives : Obligations.NestingDepthIsAtMostTheDrives := by
  intro s d target depth hd hdepth
  have hcard := card_driveSlots_le s.params
  exact catchUpTo_agree s.params target depth _ nestLimit (by omega) (by rw [nestLimit]; omega) d s hd
    (behindWithin_driveSlots target s)

end Sys2Proof.Machine

/-! One instruction in full (spec/40_clock_converter.md R139 to R143, spec/30_encoding.md R111): a jam, or the ticks and then the
body as commands of its slot. -/

namespace Sys2Proof.Machine

theorem State.updDrive_updDrive (st : State) (d : Slot) (f g : Drive → Drive) :
    (st.updDrive d f).updDrive d g = st.updDrive d (fun r => g (f r)) := by
  simp [State.updDrive, State.drive]

/-- A credit changes no answer of the agent. -/
theorem credited_cpuStep (s : State) (d : Slot) (T : Clock) : ((s.credited d T).cpuStep d).1 = (s.cpuStep d).1 :=
  State.cpuStep_fst_congr d rfl rfl

/-- An answer fixed in advance is the one given (log entry 6). -/
theorem State.cpuStep_scripted {s : State} {d : Slot} {a : ScriptAnswer} {rest : List ScriptAnswer}
    (h : (s.agent d).script = a :: rest) : (s.cpuStep d).1 = scriptedAnswer a := by
  simp only [State.cpuStep, State.tell, State.updAgent_agent_same, h]

/-- The credit of a slot, with its stop value and carry as the statements write them. -/
theorem credited_eq {s : State} {d : Slot} {T : Clock} {n : Nat} {stop : Clock}
    (hn : n = (s.drive d).stopClk.toNat * 65536 + (s.drive d).frac.toNat
      + (s.params.sdiff T (s.drive d).lastSync).toNat * (s.drive d).sf.toNat)
    (hstop : stop = s.params.wrap (BitVec.ofNat 64 (n / 65536))) :
    s.credited d T = s.updDrive d (fun r => { r with lastSync := T, stopClk := stop, frac := BitVec.ofNat 16 n }) := by
  subst hn hstop
  rfl

theorem credited_running_iff {s : State} {d : Slot} {T : Clock} (hen : (s.drive d).en = true) (hjam : (s.drive d).jam = false) :
    (s.credited d T).running d = true ↔
      0 < s.params.sdiff ((s.credited d T).drive d).stopClk (s.drive d).localClk := by
  rw [State.running_iff, State.credited_drive_same]
  simp [hen, hjam]

theorem exists_runLimit_succ (P : Params) : ∃ fuel, runLimit P = fuel + 1 :=
  ⟨runLimit P - 1, (Nat.sub_add_cancel (Nat.one_le_two_pow)).symm⟩

/-- A catch-up of a slot that then runs starts one instruction and goes on. -/
theorem catchUp_running {s : State} {d : Slot} {T : Clock} (hen : (s.drive d).en = true) (hjam : (s.drive d).jam = false)
    (hbehind : 0 < s.params.sdiff T (s.drive d).lastSync)
    (hroom : 0 < s.params.sdiff ((s.credited d T).drive d).stopClk (s.drive d).localClk) :
    ∃ fuel, catchUp d T s = run (catchUpTo 15) d fuel (execInstr (catchUpTo 15) d (s.credited d T)) := by
  obtain ⟨fuel, hfuel⟩ := exists_runLimit_succ s.params
  refine ⟨fuel, ?_⟩
  rw [catchUp_entered hen hjam hbehind, hfuel, run_running _ _ ((credited_running_iff hen hjam).mpr hroom)]

/-- Settles O27: the first instruction jams, and a jammed slot runs no further. -/
theorem jammedStepHaltsItsSlot : Obligations.JammedStepHaltsItsSlot := by
  intro s d target stop addr n rest hlive hd hen hjam hbehind hn hstop hscript hroom
  have hcredit := credited_eq hn hstop
  have hans : ((s.credited d (s.params.wrap target)).cpuStep d).1 = .jam addr :=
    (credited_cpuStep s d _).trans (State.cpuStep_scripted hscript)
  obtain ⟨fuel, hrun⟩ := catchUp_running hen hjam hbehind (by
    rw [hcredit, State.updDrive_drive_same]
    exact hroom)
  rw [exec_catchup_live target hlive hd, hrun, execInstr_jam _ hans]
  rw [run_idle _ _ ((State.not_running_iff ..).mpr (.inr (.inl (by rw [State.raise_drive, State.updDrive_drive_same]))))]
  have htail : (s.agents.read d).script.tail = rest := by rw [show (s.agents.read d).script = _ from hscript, List.tail_cons]
  simp [hcredit, State.raise, State.asked, State.updDrive, State.updAgent, State.drive, State.agent, State.chip, State.part,
    show Condition.processorJammed.bits = 0x002 from rfl, htail]

/-! A body word by word. -/

theorem exec_rd (r : ChipReg) (d : Slot) (clk : Clock) (st : State) : exec (Instr.rd r d clk) st = readCommand r d clk st := by
  cases r <;> rfl

theorem exec_wr (r : ChipReg) (d : Slot) (rmw : Bool) (b : Byte) (clk : Clock) (st : State) :
    exec (Instr.wr r d rmw b clk) st = storeCommand r d rmw b clk st := by
  cases r <;> rfl

/-- A catch-up keeps the fatal flag as it is: it sets bits 1 and 3 of `err` only (60_exceptions.md R290). -/
theorem ConfigKept.fatal {s t : State} (h : ConfigKept s t) : t.fatal = s.fatal := by
  have hbit := congrArg (fun x : BitVec 10 => x.getLsbD 0) h.conditions
  simpa [State.fatal] using hbit

/-- A read of a drive's own slot keeps what its steps keep, changes no drive register, and leaves its byte in the read latch
(43_peripheral_chip.md R206). -/
theorem chipRead_keeps {T : Clock} {D A : Slot → Prop} {I : State → Prop} {catchIt : CatchUp} {s : Slot} {st : State}
    (hi : CatchInv T D A I) (hs : A s) (hs0 : s ≠ 0) (r : ChipReg) (clk : Clock) (h : I st) :
    I (chipRead catchIt s r clk st).2 ∧ (∀ y, (chipRead catchIt s r clk st).2.drive y = st.drive y) ∧
      ((chipRead catchIt s r clk st).2.part s).rmwVal = (chipRead catchIt s r clk st).1 := by
  rw [chipRead_drive hs0]
  exact ⟨hi.read s st r _ hs h, fun _ => rfl, by rw [State.updPart_part_same]⟩

section Body

variable {T : Clock} {s0 : State} {d : Slot}

/-- A word of a body that is no read, as a command with the slot's synchronisation point as its clock. -/
theorem exec_bodyCommand {st : State} (hlive : st.fatal = false) (hd : st.params.isDrive d = true)
    (hT : (st.drive d).lastSync = T) (hfit : st.params.wrap T = T) (a : BodyAct) :
    exec (bodyCommand d T a) st = .next (bodyAct catchUp d a st) := by
  cases a with
  | wr r rmw b =>
    rw [bodyCommand, exec_wr, storeCommand, partCommand_live hlive (Params.isPart_of_isDrive hd), bodyAct, State.clock, hfit, hT]
  | signal line e =>
    exact partCommand_live hlive (Params.isPart_of_isDrive hd) (fun st => st.chipSignal d line e)
  | idletrap => exact driveCommand_live hlive hd (idleTrap d)

/-- A body performed word by word as commands is the body run, from every state that a catch-up of the slot reaches. -/
theorem performBody_eq (hd : s0.params.isDrive d = true) (hen : (s0.drive d).en = true) (hjam : (s0.drive d).jam = false)
    (hlive : s0.fatal = false) (hfit : s0.params.wrap T = T) (body : Body) {st : State} (h : CatchFrame s0 st)
    (hT : (st.drive d).lastSync = T) : performBody d T body st = .next (runBody catchUp d body st) := by
  have hi := catchFrame_inv T s0
  have hrunning : s0.params.isDrive d = true ∧ (s0.drive d).en = true ∧ (s0.drive d).jam = false := ⟨hd, hen, hjam⟩
  have hlive' : ∀ {u}, CatchFrame s0 u → u.fatal = false := fun hu => hu.kept.fatal.trans hlive
  induction body generalizing st with
  | done => rfl
  | read r next ih =>
    have hp : st.params.isPart d = true := Params.isPart_of_isDrive (h.kept.params ▸ hd)
    have hfit' : st.params.wrap T = T := h.kept.params ▸ hfit
    obtain ⟨hkept, hdrive, hlatched⟩ := chipRead_keeps hi (catchIt := catchUp) hrunning (Params.isDrive_ne_zero hd) r T h
    generalize hgot : chipRead catchUp d r T st = got at hkept hdrive hlatched
    have hexec : exec (Instr.rd r d T) st = .next (got.2.setRes got.1.toNat) := by
      rw [exec_rd, readCommand, partCommand_live (hlive' h) hp, State.clock, hfit', hgot]
    have hres : { got.2.setRes got.1.toNat with res := st.res } = got.2 := by
      rw [h.kept.res, ← hkept.kept.res]
      rfl
    rw [performBody, hexec, runBody, hT, hgot]
    dsimp only
    rw [State.setRes_part, hlatched, hres]
    exact ih _ (hi.hear d _ _ hrunning hkept) (by rw [State.tell_drive, hdrive, hT])
  | act a next ih =>
    have hd' : st.params.isDrive d = true := h.kept.params ▸ hd
    have hfit' : st.params.wrap T = T := h.kept.params ▸ hfit
    obtain ⟨hkept, hsync⟩ := bodyAct_keeps hi (catchUp_keeps hi) hrunning a st h hT
    rw [performBody, exec_bodyCommand (hlive' h) hd' hT hfit', runBody]
    exact ih hkept (hsync d hT)

end Body

/-- A depth of 15 is as good as the machine's for what nests in an instruction (40_clock_converter.md R145). -/
theorem runBody_depth {T : Clock} {st : State} {d : Slot} (hd : d ≠ 0) (body : Body) (hT : (st.drive d).lastSync = T) :
    runBody (catchUpTo 15) d body st = runBody catchUp d body st := by
  have hcard := card_driveSlots_le st.params
  have hinv := behindWithin_inv st.params T st.params.driveSlots.toFinset
  exact runBody_agree hinv (catchUpTo_keeps hinv 15)
    (catchUpTo_agree st.params T 15 _ nestLimit (by omega) (by rw [nestLimit]; omega)) trivial hd body
    (behindWithin_driveSlots T st) hT

/-- A slot that does not run before the accesses of a body does not run after them: they cannot move it away from its stop
value. -/
theorem runBody_idle {T : Clock} {st : State} {d : Slot} (hd : d ≠ 0) (body : Body) (hT : (st.drive d).lastSync = T)
    (hroom : st.params.sdiff (st.drive d).stopClk (st.drive d).localClk ≤ 0) :
    (runBody catchUp d body st).running d = false := by
  obtain ⟨hothers, l, hown, hl⟩ := runBody_coasted (catchUp_settles T) hd body st hT
  rw [State.not_running_iff, hothers.params, hown]
  refine .inr (.inr ?_)
  dsimp only
  rcases hl with rfl | ⟨_, hl⟩
  · exact hroom
  · exact hl.trans hroom

/-- Settles O26: the credited slot runs, its instruction is the ticks and the body, nested one level deeper than the commands of
the body are, and after it the slot runs no further. -/
theorem catchupRunsOneWholeInstruction : Obligations.CatchupRunsOneWholeInstruction := by
  intro s d target stop k n body hlegal hlive hd hen hjam hbehind hn hstop hk1 hkMax hk hans hroom hreach ticked
  have hd0 := Params.isDrive_ne_zero hd
  have hcredit := credited_eq hn hstop
  have hlegalTicks : s.params.legalTicks k = k := by rw [Params.legalTicks]; omega
  have hticked : ((s.credited d (s.params.wrap target)).asked d).ticked d k = ticked := by
    rw [hcredit, State.ticked, State.chipTick_eq_tickLoop]
    simp [ticked, State.asked, State.updDrive, State.updAgent, State.updChip, State.updPart, State.drive, State.agent,
      State.chip, State.part]
  have hdrive : ticked.drive d = { s.drive d with
      lastSync := s.params.wrap target, stopClk := stop, frac := BitVec.ofNat 16 n
      localClk := s.params.addClk (s.drive d).localClk (BitVec.ofNat 64 k) } := by
    rw [State.updAgent_drive, State.updChip_drive, State.updDrive_drive_same]
  have hT : (ticked.drive d).lastSync = s.params.wrap target := by rw [hdrive]
  have hreached : ticked.params.sdiff (ticked.drive d).stopClk (ticked.drive d).localClk ≤ 0 := by
    zify at hk
    rw [hdrive]
    show s.params.sdiff stop (s.params.addClk (s.drive d).localClk (BitVec.ofNat 64 k)) ≤ 0
    rw [Params.sdiff_addClk] <;> omega
  obtain ⟨fuel, hrun⟩ := catchUp_running hen hjam hbehind (by
    rw [hcredit, State.updDrive_drive_same]
    exact hroom)
  refine ⟨runBody catchUp d body ticked, ?_, ?_, fun hdone => by rw [hdone]; rfl⟩
  · exact performBody_eq (s0 := ticked) hd (by rw [hdrive]; exact hen) (by rw [hdrive]; exact hjam) hlive (Params.wrap_wrap ..) body
      (.refl ticked) hT
  · rw [exec_catchup_live target hlive hd, hrun, execInstr_instr _ ((credited_cpuStep s d _).trans hans),
      State.credited_params, hlegalTicks, hticked, runBody_depth hd0 body hT,
      run_idle _ _ (runBody_idle hd0 body hT hreached)]

end Sys2Proof.Machine

/-! A catch-up in two parts (spec/40_clock_converter.md R138, R139). The credit adds up whatever the processor does. A processor
without accesses is not touched by the credit, so an instruction that starts before the first stop value is the one that the
undivided run starts there. -/

namespace Sys2Proof.Machine

section Credit

variable {A B : Clock} {s t : State} {d : Slot}

/-- The two deltas of a catch-up in two parts add up (00_scope.md R10). -/
theorem sdiff_two_parts (h1 : 0 < s.params.sdiff A (s.drive d).lastSync) (h2 : 0 < s.params.sdiff B A)
    (hsum : s.params.sdiff A (s.drive d).lastSync + s.params.sdiff B A < 2 ^ (s.params.clkW.bits - 1)) :
    s.params.sdiff B (s.drive d).lastSync = s.params.sdiff A (s.drive d).lastSync + s.params.sdiff B A := by
  have hrange : (0 : Int) < 2 ^ (s.params.clkW.bits - 1) := by positivity
  rw [add_comm, Params.sdiff_add] <;> omega

/-- The credit of the second part, on top of the first, is the credit of the whole (40_clock_converter.md R138). -/
theorem SyncedTo.credit_twice (h : SyncedTo A s t) (harrived : (t.drive d).lastSync = A)
    (h1 : 0 < s.params.sdiff A (s.drive d).lastSync) (h2 : 0 < s.params.sdiff B A)
    (hsum : s.params.sdiff A (s.drive d).lastSync + s.params.sdiff B A < 2 ^ (s.params.clkW.bits - 1)) :
    t.credit d B = s.credit d B := by
  obtain ⟨hstop, hfrac⟩ := Prod.ext_iff.mp (h.credit h1 harrived)
  rw [State.credit, State.credit, h.1, harrived, (h.2 d).1, sdiff_two_parts h1 h2 hsum, Int.toNat_add h1.le h2.le,
    ← convert_convert]
  exact congrArg₂ (fun x y => convert s.params x y _ _) hstop hfrac

end Credit

/-! A processor whose instructions make no accesses. -/

@[simp] theorem State.recredited_recredited (st : State) (d : Slot) (T T' : Clock) (c c' : Clock × BitVec 16) :
    (st.recredited d T c).recredited d T' c' = st.recredited d T' c' := State.updDrive_updDrive ..

/-- The state after an instruction of `k` ticks without accesses (40_clock_converter.md R142). -/
def State.idled (st : State) (d : Slot) (k : Nat) : State := (st.asked d).ticked d k

/-- An enabled, unjammed slot whose agent has fixed in advance instructions without accesses only, enough of them to reach
`stop` (log entries 6 and 8). -/
structure Plain (d : Slot) (stop : Clock) (st : State) : Prop where
  short : ShortInstr st.params
  en : (st.drive d).en = true
  jam : (st.drive d).jam = false
  script : ∀ x ∈ (st.agent d).script, ∃ k, x = .instr k []
  enough : st.params.sdiff stop (st.drive d).localClk ≤ (st.agent d).script.length

section Plain

variable {d : Slot} {stop T : Clock} {c : Clock × BitVec 16} {st : State}

theorem idled_drive (st : State) (d : Slot) (k : Nat) : (st.idled d k).drive d =
    { st.drive d with localClk := st.params.addClk (st.drive d).localClk (BitVec.ofNat 64 k) } := State.ticked_drive_same

theorem recredited_running_iff (h : Plain d stop st) : (st.recredited d T c).running d = true ↔
    0 < st.params.sdiff c.1 (st.drive d).localClk := by
  rw [State.running_iff, State.recredited_drive_same]
  simp [h.en, h.jam]

/-- The credit is not touched by the instruction, nor the instruction by the credit. -/
theorem idled_recredited (st : State) (d : Slot) (T : Clock) (c : Clock × BitVec 16) (k : Nat) :
    (st.recredited d T c).idled d k = (st.idled d k).recredited d T c := by
  simp [State.recredited, State.idled, State.asked, State.ticked, State.chipTick, State.updDrive, State.updAgent,
    State.updChip, State.updPart, State.drive, State.agent, State.chip, State.part]

theorem idled_script (st : State) (d : Slot) (k : Nat) :
    ((st.idled d k).agent d).script = (st.agent d).script.tail := by
  simp only [State.idled, State.asked, State.ticked, State.chipTick_agent, State.updDrive_agent, State.updAgent_agent_same]

/-- The room before `stop` shrinks by the ticks of an instruction. -/
theorem idled_room {k : Nat} (hshort : ShortInstr st.params) (hk : k ≤ st.params.kMax)
    (hroom : 0 < st.params.sdiff stop (st.drive d).localClk) :
    (st.idled d k).params.sdiff stop ((st.idled d k).drive d).localClk =
      st.params.sdiff stop (st.drive d).localClk - k := by
  have hrange := hshort.2
  zify at hrange
  rw [idled_drive]
  exact Params.sdiff_addClk (P := st.params) (by omega)

/-- A slot before `stop` starts an instruction of 1 to `K_MAX` ticks and makes no access, and goes on likewise. -/
theorem Plain.step (h : Plain d stop st) (hroom : 0 < st.params.sdiff stop (st.drive d).localClk) :
    ∃ k : Nat, 1 ≤ k ∧ k ≤ st.params.kMax ∧ Plain d stop (st.idled d k) ∧
      ∀ catchIt T c, execInstr catchIt d (st.recredited d T c) = (st.idled d k).recredited d T c := by
  cases hscript : (st.agent d).script with
  | nil =>
    have henough := h.enough
    rw [hscript, List.length_nil] at henough
    omega
  | cons x rest =>
    obtain ⟨n, rfl⟩ := h.script x (hscript ▸ List.mem_cons_self ..)
    have hk1 := legalTicks_pos st.params n
    have hk2 := legalTicks_le h.short.1 n
    refine ⟨st.params.legalTicks n, hk1, hk2, ⟨h.short, ?_, ?_, fun x hx => ?_, ?_⟩, fun catchIt T c => ?_⟩
    · rw [idled_drive]
      exact h.en
    · rw [idled_drive]
      exact h.jam
    · rw [idled_script] at hx
      exact h.script x (List.mem_of_mem_tail hx)
    · have henough := h.enough
      have hless := idled_room h.short hk2 hroom
      rw [hscript, List.length_cons] at henough
      rw [idled_script, hscript, List.tail_cons, hless]
      push_cast at henough
      omega
    · have hans : ((st.recredited d T c).cpuStep d).1 = .instr n .done :=

        (State.cpuStep_fst_congr (s := st) (t := st.recredited d T c) d rfl rfl).trans (State.cpuStep_scripted hscript)
      rw [execInstr_instr catchIt hans, ← idled_recredited]
      rfl

/-- A run that may start as many instructions as there are ticks before its stop value ends there: more change nothing. -/
theorem Plain.run_fuel (h : Plain d c.1 st) (catchIt : CatchUp) {m n : Nat}
    (hm : st.params.sdiff c.1 (st.drive d).localClk ≤ m) (hn : st.params.sdiff c.1 (st.drive d).localClk ≤ n) :
    run catchIt d m (st.recredited d T c) = run catchIt d n (st.recredited d T c) := by
  induction m generalizing n st with
  | zero =>
    have hidle : (st.recredited d T c).running d = false := by
      rw [← Bool.not_eq_true, recredited_running_iff h]
      omega
    rw [run_idle _ _ hidle, run_idle _ _ hidle]
  | succ m ih =>
    by_cases hroom : 0 < st.params.sdiff c.1 (st.drive d).localClk
    · have hrun := (recredited_running_iff (T := T) h).mpr hroom
      obtain ⟨k, hk1, hk2, hplain, hexec⟩ := h.step hroom
      have hless := idled_room h.short hk2 hroom
      obtain ⟨n, rfl⟩ : ∃ n', n = n' + 1 := ⟨n - 1, by omega⟩
      rw [run_running _ _ hrun, run_running _ _ hrun, hexec]
      push_cast at hm hn
      exact ih hplain (by omega) (by omega)
    · have hidle : (st.recredited d T c).running d = false := by
        rw [← Bool.not_eq_true, recredited_running_iff h]
        exact hroom
      rw [run_idle _ _ hidle, run_idle _ _ hidle]

/-- A run of such a slot, whatever its stop value, leaves the credit as it is and the slot as it must be to run on. -/
theorem Plain.run_plain (h : Plain d stop st) (catchIt : CatchUp) (m : Nat)
    (hle : st.params.sdiff c.1 (st.drive d).localClk ≤ st.params.sdiff stop (st.drive d).localClk) :
    ∃ u, run catchIt d m (st.recredited d T c) = u.recredited d T c ∧ Plain d stop u := by
  induction m generalizing st with
  | zero => exact ⟨st, rfl, h⟩
  | succ m ih =>
    by_cases hroom : 0 < st.params.sdiff c.1 (st.drive d).localClk
    · obtain ⟨k, hk1, hk2, hplain, hexec⟩ := h.step (hroom.trans_le hle)
      rw [run_running _ _ ((recredited_running_iff h).mpr hroom), hexec]
      refine ih hplain ?_
      rw [idled_room h.short hk2 hroom, idled_room h.short hk2 (hroom.trans_le hle)]
      omega
    · have hidle : (st.recredited d T c).running d = false := by
        rw [← Bool.not_eq_true, recredited_running_iff h]
        exact hroom
      rw [run_idle _ _ hidle]
      exact ⟨st, rfl, h⟩

/-- A run to an earlier stop value, then a credit and a run to a later one, is one run to the later one (40_clock_converter.md
R139: "an instruction that starts before an intermediate stop value also starts before the final one"). -/
theorem Plain.run_twice {T' : Clock} {c' : Clock × BitVec 16} (h : Plain d c'.1 st) (catchIt : CatchUp) (m : Nat) {n : Nat}
    (hle : st.params.sdiff c.1 (st.drive d).localClk ≤ st.params.sdiff c'.1 (st.drive d).localClk)
    (hn : st.params.sdiff c'.1 (st.drive d).localClk ≤ n) :
    run catchIt d n ((run catchIt d m (st.recredited d T c)).recredited d T' c') =
      run catchIt d n (st.recredited d T' c') := by
  induction m generalizing st with
  | zero => rw [run, State.recredited_recredited]
  | succ m ih =>
    by_cases hroom : 0 < st.params.sdiff c.1 (st.drive d).localClk
    · have hroom' := hroom.trans_le hle
      obtain ⟨k, hk1, hk2, hplain, hexec⟩ := h.step hroom'
      have hless := idled_room h.short hk2 hroom
      have hless' := idled_room h.short hk2 hroom'
      obtain ⟨n, rfl⟩ : ∃ n', n = n' + 1 := ⟨n - 1, by omega⟩
      rw [run_running _ _ ((recredited_running_iff h).mpr hroom), hexec, ih hplain (by omega) (by omega),
        run_running _ n ((recredited_running_iff h).mpr hroom'), hexec]
      push_cast at hn
      exact hplain.run_fuel catchIt (by push_cast; omega) (by omega)
    · have hidle : (st.recredited d T c).running d = false := by
        rw [← Bool.not_eq_true, recredited_running_iff h]
        exact hroom
      rw [run_idle _ _ hidle, State.recredited_recredited]

end Plain

/-! The two parts. -/

/-- More driving ticks credit no fewer local ticks. -/
theorem carry_mono (frac sf : Nat) {m n : Nat} (h : m ≤ n) : (frac + m * sf) / 65536 ≤ (frac + n * sf) / 65536 :=
  Nat.div_le_div_right (Nat.add_le_add_left (Nat.mul_le_mul_right _ h) _)

section Parts

variable {A B : Clock} {s : State} {d : Slot}

/-- After the first part the slot is behind the second target by the second delta, with the credit of the first. -/
theorem catchUp_first (hd : s.params.isDrive d = true) (hen : (s.drive d).en = true) (hjam : (s.drive d).jam = false)
    (h1 : 0 < s.params.sdiff A (s.drive d).lastSync) (h2 : 0 < s.params.sdiff B A)
    (hsum : s.params.sdiff A (s.drive d).lastSync + s.params.sdiff B A < 2 ^ (s.params.clkW.bits - 1)) :
    let t := catchUp d A s
    t.params = s.params ∧ (t.drive d).en = true ∧ 0 < t.params.sdiff B (t.drive d).lastSync ∧
      t.credit d B = s.credit d B := by
  intro t
  have hd0 := Params.isDrive_ne_zero hd
  have hframe : CatchFrame s t := catchUp_frame d A s hd
  have harrived : (t.drive d).lastSync = A := catchUp_arrives d hd0 A s hen hjam h1
  obtain ⟨_, _, hen', _⟩ := hframe.kept.drive d
  refine ⟨hframe.kept.params, hen'.trans hen, ?_, (catchUp_syncedTo d hd0 A s).credit_twice harrived h1 h2 hsum⟩
  rw [hframe.kept.params, harrived]
  exact h2

/-- Two catch-ups of a slot that the first does not jam leave the registers of one to the second target. -/
theorem catchUp_catchUp_credit (hd : s.params.isDrive d = true) (hen : (s.drive d).en = true)
    (hjam : (s.drive d).jam = false) (h1 : 0 < s.params.sdiff A (s.drive d).lastSync) (h2 : 0 < s.params.sdiff B A)
    (hsum : s.params.sdiff A (s.drive d).lastSync + s.params.sdiff B A < 2 ^ (s.params.clkW.bits - 1))
    (hjam' : ((catchUp d A s).drive d).jam = false) :
    let u := catchUp d B (catchUp d A s)
    let v := catchUp d B s
    (u.drive d).stopClk = (v.drive d).stopClk ∧ (u.drive d).frac = (v.drive d).frac ∧
      (u.drive d).lastSync = (v.drive d).lastSync := by
  intro u v
  have hd0 := Params.isDrive_ne_zero hd
  obtain ⟨_, hen', hbehind2, htwice⟩ := catchUp_first hd hen hjam h1 h2 hsum
  have hbehind : 0 < s.params.sdiff B (s.drive d).lastSync := by
    rw [sdiff_two_parts h1 h2 hsum]
    omega
  have hu := catchUp_arrives d hd0 B _ hen' hjam' hbehind2
  have hv := catchUp_arrives d hd0 B s hen hjam hbehind
  have hcredit := ((catchUp_syncedTo d hd0 B _).credit hbehind2 hu).trans
    (htwice.trans ((catchUp_syncedTo d hd0 B s).credit hbehind hv).symm)
  obtain ⟨hstop, hfrac⟩ := Prod.ext_iff.mp hcredit
  exact ⟨hstop, hfrac, hu.trans hv.symm⟩

/-- Two catch-ups of a slot whose processor makes no accesses are one to the second target. -/
theorem catchUp_catchUp_plain (hd : s.params.isDrive d = true) (h1 : 0 < s.params.sdiff A (s.drive d).lastSync)
    (h2 : 0 < s.params.sdiff B A)
    (hsum : s.params.sdiff A (s.drive d).lastSync + s.params.sdiff B A < 2 ^ (s.params.clkW.bits - 1))
    (hplain : Plain d (s.credit d B).1 s)
    (hle : s.params.sdiff (s.credit d A).1 (s.drive d).localClk ≤ s.params.sdiff (s.credit d B).1 (s.drive d).localClk) :
    catchUp d B (catchUp d A s) = catchUp d B s := by
  obtain ⟨hparams, hen', hbehind2, htwice⟩ := catchUp_first hd hplain.en hplain.jam h1 h2 hsum
  have hfirst : catchUp d A s = run (catchUpTo 15) d (runLimit s.params) (s.recredited d A (s.credit d A)) :=
    catchUp_entered hplain.en hplain.jam h1
  obtain ⟨u, hrun, hu⟩ := hplain.run_plain (T := A) (catchUpTo 15) (runLimit s.params) hle
  have hjam' : ((catchUp d A s).drive d).jam = false := by
    rw [hfirst, hrun, State.recredited_drive_same]
    exact hu.jam
  have hbehind : 0 < s.params.sdiff B (s.drive d).lastSync := by
    rw [sdiff_two_parts h1 h2 hsum]
    omega
  rw [catchUp_entered hen' hjam' hbehind2, catchUp_entered hplain.en hplain.jam hbehind, State.credited, State.credited,
    htwice, hparams, hfirst]
  exact hplain.run_twice (catchUpTo 15) _ hle (sdiff_le_runLimit ..)

end Parts

/-- Settles O24: the credits add up whatever the processor does; without accesses the two runs are one. -/
theorem splittingACatchupDoesNotShow : Obligations.SplittingACatchupDoesNotShow := by
  intro s d a b hlive hd hen hjam h1 h2
  dsimp only
  intro hsum
  have hfirst := exec_catchup_live a hlive hd
  have hwhole := exec_catchup_live b hlive hd
  have hkept := (catchUp_frame d (s.params.wrap a) s hd).kept
  have hsecond := exec_catchup_live b (hkept.fatal.trans hlive) (hkept.params ▸ hd)
  rw [hkept.params] at hsecond
  refine ⟨fun t u v ht hjam' hu hv => ?_, fun hlegal hk hscript henough hrange => ⟨_, _, hfirst, hsecond, ?_⟩⟩
  · obtain rfl := Host.Outcome.next.inj (hfirst.symm.trans ht)
    obtain rfl := Host.Outcome.next.inj (hsecond.symm.trans hu)
    obtain rfl := Host.Outcome.next.inj (hwhole.symm.trans hv)
    exact catchUp_catchUp_credit hd hen hjam h1 h2 hsum hjam'
  · have hdelta := sdiff_two_parts h1 h2 hsum
    have hcarry := carry_mono (s.drive d).frac.toNat (s.drive d).sf.toNat
      (Int.toNat_le_toNat (le_add_of_nonneg_right (a := s.params.sdiff (s.params.wrap a) (s.drive d).lastSync) h2.le))
    have hroomA := sdiff_credit (st := s) (s := d) (T := s.params.wrap a) (by omega)
    have hroomB := sdiff_credit (st := s) (s := d) (T := s.params.wrap b) (by rw [hdelta]; exact hrange)
    rw [hdelta] at hroomB
    rw [hwhole, catchUp_catchUp_plain hd h1 h2 hsum]
    · refine ⟨⟨kMax_pos_of_legal hlegal, hk⟩, hen, hjam, hscript, ?_⟩
      rw [hroomB]
      exact henough
    · rw [hroomA, hroomB]
      omega

end Sys2Proof.Machine

/-! What every command leaves of the conditions and of the registrations (spec/41_overflow_guard.md R161, R168;
spec/60_exceptions.md R290, R291): the bits of `err` stay legal, and a registered slot stays registered. Conditions are raised
by whole patterns of bits, each legal, and no operation but MRESET clears a bit of `sub_mask`. -/

namespace Sys2Proof.Machine

/-! The bits of `err`. -/

/-- A pattern of `err` bits that the block can hold (41_overflow_guard.md R168, 60_exceptions.md R291). -/
def ErrBitsLegal (e : BitVec 10) : Prop :=
  e.getLsbD 2 = false ∧ (e.getLsbD 0 = true ↔ e.getLsbD 5 = true ∨ e.getLsbD 7 = true)

theorem State.errLegal_iff (st : State) : st.ErrLegal ↔ ErrBitsLegal st.err := Iff.rfl

theorem errBitsLegal_zero : ErrBitsLegal 0 := by
  unfold ErrBitsLegal
  decide

theorem Condition.bits_errBitsLegal (c : Condition) : ErrBitsLegal c.bits := by
  unfold ErrBitsLegal
  cases c <;> decide

theorem ErrBitsLegal.or {a b : BitVec 10} (ha : ErrBitsLegal a) (hb : ErrBitsLegal b) : ErrBitsLegal (a ||| b) := by
  obtain ⟨ha2, hafatal⟩ := ha
  obtain ⟨hb2, hbfatal⟩ := hb
  simp only [ErrBitsLegal, BitVec.getLsbD_or, Bool.or_eq_true, ha2, hb2, hafatal, hbfatal]
  exact ⟨rfl, or_or_or_comm ..⟩

/-- What CLRERR leaves outside the fatal state is no condition at all (44_system_ops.md R264). -/
theorem and_one_of_not_fatal {e : BitVec 10} (h : e.getLsbD 0 = false) : e &&& 1 = 0 := by
  revert e
  decide

/-! The relation and its rules. -/

/-- `err` stays legal, and every registered slot stays registered. -/
def GuardKept (s t : State) : Prop :=
  (s.ErrLegal → t.ErrLegal) ∧ ∀ x, (s.drive x).sub = true → (t.drive x).sub = true

section Rules

variable {s t u : State} {y : Slot} {f : Drive → Drive}

theorem GuardKept.refl (s : State) : GuardKept s s := ⟨id, fun _ => id⟩

/-- Only `err` and the drive registers count. -/
theorem GuardKept.congr (h : GuardKept s t) (herr : u.err = t.err) (hdrives : u.drives = t.drives) : GuardKept s u := by
  obtain ⟨hlegal, hsub⟩ := h
  refine ⟨fun hs => ?_, fun x hx => ?_⟩
  · rw [State.errLegal_iff, herr]
    exact hlegal hs
  · rw [State.drive, hdrives]
    exact hsub x hx

theorem GuardKept.of_same (herr : t.err = s.err) (hdrives : t.drives = s.drives) : GuardKept s t :=
  (GuardKept.refl s).congr herr hdrives

theorem GuardKept.updPart {g : Part → Part} (h : GuardKept s t) : GuardKept s (t.updPart y g) := h.congr rfl rfl

theorem GuardKept.tell {e : CpuEvent} (h : GuardKept s t) : GuardKept s (t.tell y e) := h.congr rfl rfl

theorem GuardKept.setRes {v : Nat} (h : GuardKept s t) : GuardKept s (t.setRes v) := h.congr rfl rfl

theorem GuardKept.raise {c : Condition} (h : GuardKept s t) : GuardKept s (t.raise c y) :=
  ⟨fun hs => (t.errLegal_iff.mp (h.1 hs)).or c.bits_errBitsLegal, h.2⟩

theorem GuardKept.updDrive (h : GuardKept s t) (hf : ∀ d, d.sub = true → (f d).sub = true) :
    GuardKept s (t.updDrive y f) := by
  refine ⟨h.1, fun x hx => ?_⟩
  rw [State.updDrive_drive]
  split
  · rename_i hxy
    exact hf _ (hxy ▸ h.2 x hx)
  · exact h.2 x hx

theorem GuardKept.foldl_updDrive {l : List Slot} (h : GuardKept s t) (hf : ∀ d, d.sub = true → (f d).sub = true) :
    GuardKept s (l.foldl (fun u x => u.updDrive x f) t) :=
  List.foldlRecOn l _ h fun _ hu _ _ => hu.updDrive hf

theorem GuardKept.resolve (h : GuardKept s t) : GuardKept s t.resolve := by
  refine ⟨fun hs => ?_, fun x hx => ?_⟩
  · rw [State.errLegal_iff, State.resolve_err]
    exact h.1 hs
  · rw [State.resolve_drive]
    exact h.2 x hx

end Rules

/-! Catch-up and what nests in it. -/

/-- Each step of a catch-up raises whole conditions and leaves the registrations alone (40_clock_converter.md R142, R143;
42_bus_arbiter.md R177). -/
theorem guardKept_inv (T : Clock) (s0 : State) : CatchInv T (· ≠ 0) (fun _ => True) (GuardKept s0) where
  nonhost _ h := h
  drives _ _ _ hd := Params.isDrive_ne_zero ((Params.mem_driveSlots _ _).mp hd)
  enter _ _ h _ _ _ _ := ⟨trivial, h.updDrive fun _ => id⟩
  ask _ _ _ _ h := h
  jam s _ addr _ h _ := (h.updDrive (y := s) (f := fun d => { d with jam := true, jamAddr := addr }) fun _ => id).raise
  ticks s st n _ h :=
    h.updDrive (y := s) (f := fun d => { d with localClk := st.params.addClk d.localClk (BitVec.ofNat 64 n) }) fun _ => id
  read _ _ _ _ _ h := h
  hear _ _ _ _ h := h
  store _ _ _ _ _ h := h
  signal _ _ _ _ _ h := h
  clamp _ _ _ h _ := h.raise
  notify _ _ _ _ h := GuardKept.resolve h

section Effects

variable {T : Clock} {st : State} {p : Slot}

theorem GuardKept.of_catchUp (hp : p ≠ 0) : GuardKept st (catchUp p T st) :=
  (catchUp_keeps (guardKept_inv T st) p st hp (.refl st)).1

theorem GuardKept.of_catchAll : GuardKept st (catchAll catchUp T st) :=
  (catchAll_keeps (guardKept_inv T st) (catchUp_keeps (guardKept_inv T st)) st (.refl st)).1

theorem GuardKept.of_outChg {byte : Byte} {act : Bool} : GuardKept st (outChg catchUp p byte act T st) :=
  (outChg_keeps (guardKept_inv T st) (catchUp_keeps (guardKept_inv T st)) trivial byte act st (.refl st)).1

theorem GuardKept.of_chipStore {r : ChipReg} {b : Byte} {rmw : Bool} : GuardKept st (chipStore catchUp p r b rmw T st) :=
  (chipStore_keeps (guardKept_inv T st) (catchUp_keeps (guardKept_inv T st)) trivial r b rmw st (.refl st)).1

theorem GuardKept.of_chipRead {r : ChipReg} : GuardKept st (chipRead catchUp p r T st).2 := by
  by_cases h : p = 0 ∧ r = .pb
  · obtain ⟨rfl, rfl⟩ := h
    rw [chipRead_host]
    exact GuardKept.resolve .of_catchAll
  · rw [chipRead_plain (by tauto)]
    exact .refl st

theorem GuardKept.of_idleTrap : GuardKept st (idleTrap p st) :=
  (idleTrap_keeps (guardKept_inv 0 st) trivial st (.refl st)).1

theorem GuardKept.of_driveReset {kind : ResetKind} {now : Clock} : GuardKept st (driveReset kind p now st) :=
  .resolve (.tell (.updPart (.updPart (.updDrive (.refl st) fun _ => id))))

theorem GuardKept.of_loadPctx {bs : List Byte} : GuardKept st (loadPctx p bs st) := by
  refine .tell ?_
  split
  · exact .of_same rfl rfl
  · exact .updDrive (.refl st) fun _ => id

end Effects

/-! Commands. -/

section Commands

variable {st t : State} {p : Slot} {f : State → State}

theorem command_guardKept (h : command st f = .next t) (hf : st.fatal = false → GuardKept st (f st)) : GuardKept st t := by
  rcases command_cases h with ⟨_, rfl⟩ | ⟨hlive, rfl⟩
  · exact .refl t
  · exact hf hlive

theorem driveCommand_guardKept (h : driveCommand st p f = .next t)
    (hf : st.params.isDrive p = true → GuardKept st (f st)) : GuardKept st t := by
  rcases driveCommand_cases h with ⟨_, rfl⟩ | ⟨_, _, rfl⟩ | ⟨_, hp, rfl⟩
  · exact .refl t
  · exact .raise (.refl st)
  · exact hf hp

theorem partCommand_guardKept (h : partCommand st p f = .next t) (hf : GuardKept st (f st)) : GuardKept st t := by
  rcases partCommand_cases h with ⟨_, rfl⟩ | ⟨_, _, rfl⟩ | ⟨_, _, rfl⟩
  · exact .refl t
  · exact .raise (.refl st)
  · exact hf

theorem readCommand_guardKept {r : ChipReg} {opa : Clock} (h : readCommand r p opa st = .next t) : GuardKept st t :=
  partCommand_guardKept h (.setRes .of_chipRead)

theorem storeCommand_guardKept {r : ChipReg} {rmw : Bool} {imm : Byte} {opa : Clock}
    (h : storeCommand r p rmw imm opa st = .next t) : GuardKept st t := partCommand_guardKept h .of_chipStore

theorem illegalHeader_guardKept {c : Command} (h : illegalHeader c st = .next t) : GuardKept st t :=
  command_guardKept h fun _ => .raise (.refl st)

theorem execDreset_guardKept {opa : Clock} (h : execDreset p opa st = .next t) : GuardKept st t :=
  driveCommand_guardKept h fun _ => .of_driveReset

theorem execDhreset_guardKept {opa : Clock} (h : execDhreset p opa st = .next t) : GuardKept st t :=
  driveCommand_guardKept h fun _ => .of_driveReset

theorem execDbgatt_guardKept {opa : Clock} (h : execDbgatt p opa st = .next t) : GuardKept st t := by
  refine driveCommand_guardKept h fun _ => ?_
  split
  · exact .updDrive (.refl st) fun _ => id
  · exact .refl st

theorem execClrerr_guardKept (h : execClrerr st = .next t) : GuardKept st t := by
  refine command_guardKept h fun hlive => ⟨fun _ => ?_, fun _ => id⟩
  rw [State.errLegal_iff, and_one_of_not_fatal hlive]
  exact errBitsLegal_zero

theorem execCsrrd_guardKept {sel : Csr} {opb : BitVec 32} (h : execCsrrd p sel opb st = .next t) : GuardKept st t := by
  refine command_guardKept h fun _ => ?_
  split
  · split
    · exact .of_same rfl rfl
    · exact .raise (.refl st)
  · exact .raise (.refl st)

theorem execSnapsave_guardKept {kind : BlockKind} {opa : Clock} (h : execSnapsave p kind opa st = .next t) :
    GuardKept st t := partCommand_guardKept h (.setRes (GuardKept.of_catchAll.congr rfl rfl))

theorem execSnapload_guardKept {kind : BlockKind} {bs : List Byte} (h : execSnapload p kind bs st = .next t) :
    GuardKept st t := by
  refine partCommand_guardKept h ?_
  dsimp only
  split
  · exact .setRes (.raise (.refl st))
  · exact .setRes (.raise (.refl st))
  · cases kind with
    | pctx => exact .setRes .of_loadPctx
    | chip => exact .of_same rfl rfl

theorem execSetfdrv_guardKept {opb : BitVec 32} (h : execSetfdrv opb st = .next t) : GuardKept st t := by
  refine command_guardKept h fun _ => ?_
  split
  · exact .foldl_updDrive (.of_same rfl rfl) fun _ => id
  · exact .raise (.refl st)

theorem execSetfloc_guardKept {opb : BitVec 32} (h : execSetfloc p opb st = .next t) : GuardKept st t := by
  refine driveCommand_guardKept h fun _ => ?_
  split
  · exact .updDrive (.refl st) fun _ => id
  · exact .raise (.refl st)

theorem execSetturbo_guardKept {on : Bool} (h : execSetturbo p on st = .next t) : GuardKept st t := by
  refine driveCommand_guardKept h fun _ => ?_
  split
  · exact .raise (.refl st)
  · split
    · exact .updDrive (.refl st) fun _ => id
    · exact .raise (.refl st)

theorem execEnable_guardKept {opa : Clock} (h : execEnable p opa st = .next t) : GuardKept st t := by
  refine driveCommand_guardKept h fun _ => ?_
  dsimp only
  split
  · exact .refl st
  · exact .resolve (.updDrive (.refl st) fun _ => id)

theorem execDisable_guardKept (h : execDisable p st = .next t) : GuardKept st t := by
  refine driveCommand_guardKept h fun _ => ?_
  split
  · exact .resolve (.updDrive (.of_same rfl rfl) fun _ => id)
  · exact .refl st

theorem execCatchup_guardKept {opa : Clock} (h : execCatchup p opa st = .next t) : GuardKept st t :=
  driveCommand_guardKept h fun hp => .of_catchUp (Params.isDrive_ne_zero hp)

theorem execSyncall_guardKept {opa : Clock} (h : execSyncall opa st = .next t) : GuardKept st t :=
  command_guardKept h fun _ => .of_catchAll

theorem execIdletrap_guardKept (h : execIdletrap p st = .next t) : GuardKept st t :=
  driveCommand_guardKept h fun _ => .of_idleTrap

theorem execGreg_guardKept (h : execGreg p st = .next t) : GuardKept st t :=
  driveCommand_guardKept h fun _ => .updDrive (.refl st) fun _ _ => rfl

theorem execAdvance_guardKept {opb : BitVec 32} (h : execAdvance opb st = .next t) : GuardKept st t :=
  command_guardKept h fun _ => .of_same rfl rfl

theorem Drive.rebase_sub (P : Params) (amt : Clock) (d : Drive) : (d.rebase P amt).sub = d.sub := by
  unfold Drive.rebase
  split <;> rfl

theorem execMaybereb_guardKept {opa : Clock} (h : execMaybereb opa st = .next t) : GuardKept st t := by
  refine command_guardKept h fun _ => ?_
  split
  · exact .setRes (.foldl_updDrive (.of_same rfl rfl) fun d hd => by rwa [Drive.rebase_sub])
  · exact .of_same rfl rfl

theorem execOutchg_guardKept {act : Bool} {imm : Byte} {opa : Clock} (h : execOutchg p act imm opa st = .next t) :
    GuardKept st t := partCommand_guardKept h .of_outChg

theorem execResolve_guardKept (h : execResolve st = .next t) : GuardKept st t :=
  command_guardKept h fun _ => .resolve (.refl st)

theorem execSetmode_guardKept {mode : BusMode} (h : execSetmode p mode st = .next t) : GuardKept st t :=
  partCommand_guardKept h (.resolve (.of_same rfl rfl))

theorem execFastneg_guardKept {on : Bool} (h : execFastneg p on st = .next t) : GuardKept st t :=
  partCommand_guardKept h (.of_same rfl rfl)

theorem execFast_guardKept {dir : Direction} {imm : Byte} (h : execFast p dir imm st = .next t) : GuardKept st t := by
  refine driveCommand_guardKept h fun _ => ?_
  split
  · exact .of_same rfl rfl
  · exact .raise (.refl st)

theorem execSignal_guardKept {line : ControlLine} {edge : Edge} (h : execSignal p line edge st = .next t) :
    GuardKept st t := partCommand_guardKept h (.of_same rfl rfl)

theorem execPina_guardKept {imm : Byte} (h : execPina p imm st = .next t) : GuardKept st t :=
  partCommand_guardKept h (.of_same rfl rfl)

end Commands

/-- Every command but MRESET keeps the registrations and legal conditions. -/
theorem exec_guardKept {i : Instr} {s t : State} (hi : i ≠ .mreset) (h : exec i s = .next t) : GuardKept s t := by
  cases i with
  | mreset => exact absurd rfl hi
  | dreset slot opa => exact execDreset_guardKept h
  | dhreset slot opa => exact execDhreset_guardKept h
  | dbgatt slot opa => exact execDbgatt_guardKept h
  | clrerr => exact execClrerr_guardKept h
  | csrrd slot sel opb => exact execCsrrd_guardKept h
  | snapsave slot kind opa => exact execSnapsave_guardKept h
  | snapload slot kind sdat => exact execSnapload_guardKept h
  | setfdrv opb => exact execSetfdrv_guardKept h
  | setfloc slot opb => exact execSetfloc_guardKept h
  | setturbo slot on => exact execSetturbo_guardKept h
  | enable slot opa => exact execEnable_guardKept h
  | disable slot => exact execDisable_guardKept h
  | catchup slot opa => exact execCatchup_guardKept h
  | syncall opa => exact execSyncall_guardKept h
  | idletrap slot => exact execIdletrap_guardKept h
  | greg slot => exact execGreg_guardKept h
  | advance opb => exact execAdvance_guardKept h
  | maybereb opa => exact execMaybereb_guardKept h
  | outchg slot act imm opa => exact execOutchg_guardKept h
  | resolve => exact execResolve_guardKept h
  | setmode slot mode => exact execSetmode_guardKept h
  | fastneg slot on => exact execFastneg_guardKept h
  | fast slot dir imm => exact execFast_guardKept h
  | rdPb slot opa | rdPa slot opa | rdDdrb slot opa | rdDdra slot opa | rdT1cl slot opa | rdT1ch slot opa | rdT1ll slot opa
  | rdT1lh slot opa | rdT2cl slot opa | rdT2ch slot opa | rdT2ll slot opa | rdT2lh slot opa | rdSr slot opa | rdCr slot opa
  | rdIfr slot opa | rdIer slot opa => exact readCommand_guardKept h
  | wrPb slot rmw imm opa | wrPa slot rmw imm opa | wrDdrb slot rmw imm opa | wrDdra slot rmw imm opa
  | wrT1cl slot rmw imm opa | wrT1ch slot rmw imm opa | wrT1ll slot rmw imm opa | wrT1lh slot rmw imm opa
  | wrT2cl slot rmw imm opa | wrT2ch slot rmw imm opa | wrT2ll slot rmw imm opa | wrT2lh slot rmw imm opa
  | wrSr slot rmw imm opa | wrCr slot rmw imm opa | wrIfr slot rmw imm opa | wrIer slot rmw imm opa =>
    exact storeCommand_guardKept h
  | signal slot line edge => exact execSignal_guardKept h
  | pina slot imm => exact execPina_guardKept h

/-- MRESET clears every condition (44_system_ops.md R260). -/
theorem State.machineReset_err (st : State) : st.machineReset.err = 0 :=
  List.foldlRecOn _ _ (motive := fun u : State => u.err = 0) rfl fun _ hu _ _ => hu

theorem exec_errLegal {i : Instr} {s t : State} (hs : s.ErrLegal) (h : exec i s = .next t) : t.ErrLegal := by
  by_cases hi : i = .mreset
  · subst hi
    obtain rfl := Host.Outcome.next.inj h
    rw [State.errLegal_iff, State.machineReset_err]
    exact errBitsLegal_zero
  · exact (exec_guardKept hi h).1 hs

/-- Settles O12: an idle step changes nothing, a command keeps `err` legal, and an illegal header raises a condition. -/
theorem stepKeepsErrorBitsLegal : Obligations.StepKeepsErrorBitsLegal := by
  intro s t hs h
  rcases (step_cases h).2 with ⟨_, rfl⟩ | ⟨c, rest, _, ⟨i, _, hi⟩ | ⟨e, _, he⟩⟩
  · exact hs
  · exact exec_errLegal (s := { s with port := rest }) hs hi
  · exact (illegalHeader_guardKept he).1 hs

end Sys2Proof.Machine

/-! The guard's commands (spec/41_overflow_guard.md R161 to R167): registering a slot, moving the driving clock, and the rebase,
which lowers registered clocks by one amount and so changes no difference between them. -/

namespace Sys2Proof

/-- A header as the register rules write it is the one of its fields (30_encoding.md R101). -/
theorem headerOf_toHeader (op : BitVec 8) (reg : BitVec 4) (p : Slot) (rmw : Bool) (b : Byte) :
    headerOf (Fields.toHeader { Fields.base op 0 with reg := reg }) p rmw b =
      Fields.toHeader { Fields.base op p with reg := reg, rmw := BitVec.ofBool rmw, imm := b } := by
  apply BitVec.eq_of_getLsbD_eq
  intro k hk
  simp only [headerOf, Fields.base, Fields.toHeader, BitVec.getLsbD_or, BitVec.getLsbD_shiftLeft, BitVec.getLsbD_setWidth,
    BitVec.getLsbD_append]
  interval_cases k <;> simp

/-- A difference does not see whether its operands are reduced (00_scope.md R10). -/
theorem Params.sdiff_wrap_wrap (P : Params) (a b : Clock) : P.sdiff (P.wrap a) (P.wrap b) = P.sdiff a b := by
  obtain ⟨z, hz, hlow, hhigh⟩ := P.sdiff_spec a b
  have ha := Nat.div_add_mod a.toNat (2 ^ P.clkW.bits)
  have hb := Nat.div_add_mod b.toNat (2 ^ P.clkW.bits)
  rw [← Params.wrap_toNat] at ha hb
  refine Params.sdiff_unique (z := z + (a.toNat / 2 ^ P.clkW.bits : Nat) - (b.toNat / 2 ^ P.clkW.bits : Nat)) ?_ hlow hhigh
  rw [hz]
  zify at ha hb ⊢
  linarith

/-- A number of CLK_W bits is a clock value. -/
theorem Params.wrap_ofNat {P : Params} {n : Nat} (h : n < 2 ^ P.clkW.bits) :
    P.wrap (BitVec.ofNat 64 n) = BitVec.ofNat 64 n := by
  refine Params.wrap_of_fits ?_
  rw [Params.clockFits, decide_eq_true_eq, BitVec.toNat_ofNat]
  exact (Nat.mod_le _ _).trans_lt h

/-- A shift of both clocks by one amount changes no difference (41_overflow_guard.md R167). -/
theorem Params.sdiff_subClk_subClk (P : Params) (a b amt : Clock) :
    P.sdiff (P.subClk a amt) (P.subClk b amt) = P.sdiff a b := by
  have hshift : (a - amt) - (b - amt) = a - b := sub_sub_sub_cancel_right a b amt
  rw [Params.subClk, Params.subClk, Params.sdiff_wrap_wrap, Params.sdiff, Params.sdiff, hshift]

/-- A legal REBASE_CHUNK is a clock value (00_scope.md R7). -/
theorem Params.rebaseChunk_lt {P : Params} (h : P.legal = true) : P.rebaseChunk < 2 ^ P.clkW.bits := by
  obtain ⟨hstep, _, hchunk, _⟩ := Params.constraints_of_legal h
  omega

end Sys2Proof

namespace Sys2Proof.Machine

theorem State.setRes_of_lt {st : State} {n : Nat} (h : n < 2 ^ st.params.clkW.bits) :
    st.setRes n = { st with res := BitVec.ofNat 64 n } := by
  rw [State.setRes, Params.wrap_ofNat h]

/-- Updating a chip by nothing. -/
theorem State.updChip_id (st : State) (p : Slot) : st.updChip p id = st := by
  have hpart : (fun x : Part => { x with chip := id x.chip }) = id := rfl
  rw [State.updChip, hpart, State.updPart, id, State.part, Bank.write_read_self]

/-! GREG (41_overflow_guard.md R161). -/

theorem decode_greg (d : Slot) (a : Clock) (n : BitVec 32) (bs : List Byte) :
    decode ⟨headerOf 0x20000000 d false 0, a, n, bs⟩ = .ok (.greg d) := by
  have hheader : headerOf 0x20000000 d false 0 = (Fields.base 0x20 d).toHeader := headerOf_toHeader 0x20 0 d false 0
  rw [hheader]
  exact decode_command (f := .base 0x20 d) (opa := a) (opb := n) (sdat := bs) (.greg rfl) rfl

/-- The effect of GREG. -/
def State.registered (d : Slot) (st : State) : State := st.updDrive d (fun r => { r with sub := true })

theorem exec_greg (d : Slot) (s : State) : exec (.greg d) s = driveCommand s d (State.registered d) := rfl

theorem State.registered_registered (d : Slot) (s : State) : (s.registered d).registered d = s.registered d :=
  State.updDrive_updDrive ..

theorem exec_greg_live {s : State} {d : Slot} (hlive : s.err.getLsbD 0 = false) (hd : s.params.isDrive d = true) :
    exec (.greg d) s = .next (s.registered d) :=
  (exec_greg d s).trans (driveCommand_live hlive hd _)

/-- Settles O32: registering is a write of one bit, the same the second time; `exec_guardKept` has the last clause. -/
theorem gregRegistersForGood : Obligations.GregRegistersForGood := by
  refine ⟨decode_greg, fun s d hlive hlow hhigh => ?_, fun s d hlive hrange => ?_, fun i s t d hi h hsub => ?_⟩
  · have hd : s.params.isDrive d = true := by simp [Params.isDrive, hlow, hhigh]
    refine ⟨exec_greg_live hlive hd, (exec_greg_live (s := s.registered d) hlive hd).trans ?_⟩
    rw [State.registered_registered]
    rfl
  · have hd : s.params.isDrive d = false := by
      rw [← Bool.not_eq_true, Params.isDrive, Bool.and_eq_true, decide_eq_true_eq, decide_eq_true_eq]
      exact hrange
    have hfield : (Instr.greg d).slotField = d := slotField_of_header rfl rfl
    exact (driveCommand_outOfRange rfl hfield hlive hd).trans (by rw [hfield])
  · exact (exec_guardKept hi h).2 d hsub

/-! ADVANCE (41_overflow_guard.md R162). -/

theorem decode_advance (a : Clock) (n : BitVec 32) (bs : List Byte) : decode ⟨0x21000000, a, n, bs⟩ = .ok (.advance n) :=
  decode_command (f := .base 0x21 0) (opa := a) (opb := n) (sdat := bs) (.advance rfl) rfl

/-- The driving clock and the host's timers moved by the same number of ticks. -/
def State.advanced (st : State) (n : Nat) : State :=
  { st with authClk := st.params.addClk st.authClk (BitVec.ofNat 64 n) }.updChip 0 (Chip.tickLoop n)

theorem exec_advance (n : BitVec 32) (s : State) :
    exec (.advance n) s = command s (fun st => st.advanced n.toNat) := by
  simp only [State.advanced, ← State.chipTick_eq_tickLoop]
  rfl

theorem exec_advance_live {s : State} (n : BitVec 32) (hlive : s.err.getLsbD 0 = false) :
    exec (.advance n) s = .next (s.advanced n.toNat) :=
  (exec_advance n s).trans (command_live hlive _)

theorem State.advanced_zero {st : State} (h : st.params.clockFits st.authClk = true) : st.advanced 0 = st := by
  have hclk : st.params.addClk st.authClk (BitVec.ofNat 64 0) = st.authClk :=
    (congrArg _ (BitVec.add_zero _)).trans (Params.wrap_of_fits h)
  rw [State.advanced, hclk]
  exact st.updChip_id 0

/-- Settles O33: the closed form of the ticks is the loop, and no ticks are no change. -/
theorem advanceMovesTheDrivingClock : Obligations.AdvanceMovesTheDrivingClock := by
  refine ⟨decode_advance, fun s n hlive => ⟨s.advanced n.toNat, exec_advance_live n hlive, rfl, ?_, ?_, ?_, ?_⟩⟩
  · exact s.params.addClk_toNat s.authClk n.toNat
  · exact State.updChip_part_same ..
  · exact fun p hp => State.updChip_part_ne _ _ hp
  · rintro hfits rfl
    exact State.advanced_zero hfits

/-! MAYBEREB (41_overflow_guard.md R166, R167). -/

theorem decode_maybereb (a : Clock) (n : BitVec 32) (bs : List Byte) : decode ⟨0x22000000, a, n, bs⟩ = .ok (.maybereb a) :=
  decode_command (f := .base 0x22 0) (opa := a) (opb := n) (sdat := bs) (.maybereb rfl) rfl

/-- The block with every clock of a rebase lowered, before `RES` is written. -/
def State.rebased (st : State) (amt : Clock) : State :=
  st.params.driveSlots.foldl (fun u x => u.updDrive x (Drive.rebase st.params amt))
    { st with authClk := st.params.subClk st.authClk amt }

theorem State.rebased_frame (st : State) (amt : Clock) :
    st.rebased amt = { st with authClk := st.params.subClk st.authClk amt, drives := (st.rebased amt).drives } :=
  (foldl_updDrive_spec _ st.params.driveSlots_nodup _).1

theorem State.rebased_params (st : State) (amt : Clock) : (st.rebased amt).params = st.params := by rw [st.rebased_frame]

theorem State.rebased_authClk (st : State) (amt : Clock) :
    (st.rebased amt).authClk = st.params.subClk st.authClk amt := by rw [st.rebased_frame]

theorem State.rebased_drive (st : State) (amt : Clock) (x : Slot) : (st.rebased amt).drive x =
    if st.params.isDrive x = true then (st.drive x).rebase st.params amt else st.drive x := by
  rw [State.rebased, (foldl_updDrive_spec _ st.params.driveSlots_nodup _).2 x]
  simp only [Params.mem_driveSlots]
  rfl

/-- The effect of MAYBEREB (41_overflow_guard.md R166). -/
def State.maybeRebased (cur : Clock) (st : State) : State :=
  if st.params.highWater < (st.params.wrap cur).toNat then
    (st.rebased (BitVec.ofNat 64 st.params.rebaseChunk)).setRes st.params.rebaseChunk
  else st.setRes 0

theorem exec_maybereb (cur : Clock) (s : State) : exec (.maybereb cur) s = command s (State.maybeRebased cur) := rfl

theorem exec_maybereb_live {s : State} (cur : Clock) (hlive : s.err.getLsbD 0 = false) :
    exec (.maybereb cur) s = .next (s.maybeRebased cur) :=
  (exec_maybereb cur s).trans (command_live hlive _)

/-- The three ends of MAYBEREB: ignored in the fatal state, nothing to do, or a rebase. -/
theorem exec_maybereb_cases {s t : State} {cur : Clock} (h : exec (.maybereb cur) s = .next t) :
    t = s ∨ t = s.setRes 0 ∨
      t = (s.rebased (BitVec.ofNat 64 s.params.rebaseChunk)).setRes s.params.rebaseChunk := by
  rw [exec_maybereb] at h
  rcases command_cases h with ⟨_, ht⟩ | ⟨_, ht⟩
  · exact .inl ht
  · rw [State.maybeRebased] at ht
    split at ht
    · exact .inr (.inr ht)
    · exact .inr (.inl ht)

/-- Settles O34: every drive slot is visited once, and lowered when it is registered. -/
theorem mayberebShiftsRegisteredClocks : Obligations.MayberebShiftsRegisteredClocks := by
  refine ⟨decode_maybereb, fun s cur hlegal hlive => ?_⟩
  dsimp only
  rw [exec_maybereb_live cur hlive, State.maybeRebased]
  refine ⟨fun hcur => ?_, fun hcur => ⟨_, rfl, ?_, fun x => ?_⟩⟩
  · rw [if_neg (Nat.not_lt.mpr hcur), State.setRes_of_lt (Nat.two_pow_pos _)]
    rfl
  · have hlt : s.params.rebaseChunk < 2 ^ (s.rebased (BitVec.ofNat 64 s.params.rebaseChunk)).params.clkW.bits := by
      rw [State.rebased_params]
      exact Params.rebaseChunk_lt hlegal
    rw [if_pos hcur, State.setRes_of_lt hlt, s.rebased_frame]
  · rw [if_pos hcur, State.setRes_drive, s.rebased_drive, Drive.rebase, ite_and]

/-- A registered drive after a rebase. -/
theorem State.rebased_registered {st : State} {x : Slot} (amt : Clock) (hx : st.params.isDrive x = true)
    (hsub : (st.drive x).sub = true) : (st.rebased amt).drive x =
      { st.drive x with
        lastSync := st.params.subClk (st.drive x).lastSync amt
        localClk := st.params.subClk (st.drive x).localClk amt
        stopClk := st.params.subClk (st.drive x).stopClk amt } := by
  rw [State.rebased_drive, if_pos hx, Drive.rebase, if_pos hsub]

/-- Settles O35: `sdiff` looks at the difference of its operands, and a rebase lowers both by one amount. -/
theorem rebaseKeepsClockDifferences : Obligations.RebaseKeepsClockDifferences := by
  intro s t cur x y h hx hy hsubx hsuby
  rcases exec_maybereb_cases h with rfl | rfl | rfl
  · exact ⟨rfl, rfl, rfl, rfl, rfl⟩
  · exact ⟨rfl, rfl, rfl, rfl, rfl⟩
  · simp only [State.running, State.setRes_drive, State.setRes_params, State.setRes_authClk, State.rebased_params,
      State.rebased_authClk, State.rebased_registered _ hx hsubx, State.rebased_registered _ hy hsuby,
      Params.sdiff_subClk_subClk, and_self]

end Sys2Proof.Machine

/-! The arbiter's commands and the fast side-channel (spec/42_bus_arbiter.md R176 to R181, R183). A bus notification is its
catch-ups and then a presentation of the byte; each half changes nothing the second time, for after the first nobody is behind and
the bus is coherent. -/

namespace Sys2Proof.Machine

section Live

variable {i : Instr} {p : Slot} {f : State → State} {s t : State}

/-- A participant command of a participant slot, outside the fatal state, is its effect. -/
theorem exec_part_live (hexec : exec i = fun st => partCommand st p f) (hlive : s.err.getLsbD 0 = false)
    (hp : s.params.isPart p = true) : exec i s = .next (f s) := by
  rw [hexec]
  exact partCommand_live hlive hp f

/-- In the fatal state a participant command is ignored (60_exceptions.md R297). -/
theorem partCommand_fatal (h : s.fatal = true) : partCommand s p f = .next s := by
  rw [partCommand_eq, command_fatal h]

/-- SlotOutOfRange is fatal, whatever was recorded before (60_exceptions.md R290, R291). -/
theorem State.raise_slotOutOfRange_fatal (st : State) (x : Slot) : (st.raise .slotOutOfRange x).fatal = true := by
  rw [State.fatal, State.raise_err, BitVec.getLsbD_or]
  exact Bool.or_true _

/-- A participant command whose effect keeps the parameters and is idempotent is idempotent: where it was refused, the block is in
the fatal state after it. -/
theorem exec_part_idempotent (hexec : exec i = fun st => partCommand st p f) (hparams : (f s).params = s.params)
    (heffect : f (f s) = f s) (h : exec i s = .next t) : exec i t = .next t := by
  rw [hexec] at h ⊢
  rcases partCommand_cases h with ⟨hfatal, rfl⟩ | ⟨_, _, rfl⟩ | ⟨_, hp, rfl⟩
  · exact partCommand_fatal hfatal
  · exact partCommand_fatal (s.raise_slotOutOfRange_fatal p)
  · cases hlive : (f s).fatal with
    | true => exact partCommand_fatal hlive
    | false => exact (partCommand_live hlive (hparams ▸ hp) f).trans (congrArg _ heffect)

end Live

/-! RESOLVE (42_bus_arbiter.md R178). -/

theorem decode_resolve (a : Clock) (n : BitVec 32) (bs : List Byte) : decode ⟨0x31000000, a, n, bs⟩ = .ok .resolve :=
  decode_command (f := .base 0x31 0) (opa := a) (opb := n) (sdat := bs) (.resolve rfl) rfl

/-- Resolving a coherent bus changes nothing (42_bus_arbiter.md R184). -/
theorem State.resolve_of_coherent {st : State} (h : st.BusCoherent) : st.resolve = st := by
  obtain ⟨hbus, hatn⟩ := h
  rw [hbus] at hatn
  rcases st.resolve_cases with ⟨_, e⟩ | ⟨hchanged, _⟩
  · rw [e, ← hbus]
  · exact absurd hatn.symm hchanged

/-- Settles O36: the command is the resolution, and a coherent bus is resolved already. -/
theorem resolveDeliversOneEdge : Obligations.ResolveDeliversOneEdge :=
  ⟨decode_resolve, fun s hlive => ⟨s.resolve, exec_command_live rfl hlive, s.resolve_resolved, State.resolve_of_coherent⟩⟩

/-! OUTCHG: the catch-ups (42_bus_arbiter.md R177). -/

section CatchAllExcept

variable (x : Slot) (T : Clock) (s : State)

theorem catchAllExcept_slots_ne_zero : ∀ d ∈ s.params.driveSlots.filter (· != x), d ≠ 0 :=
  fun _ hd => ne_zero_of_mem_driveSlots (List.mem_of_mem_filter hd)

theorem mem_catchAllExcept_slots (d : Slot) (hd : s.params.isDrive d = true) (hdx : d ≠ x) :
    d ∈ s.params.driveSlots.filter (· != x) :=
  List.mem_filter.mpr ⟨(s.params.mem_driveSlots d).mpr hd, bne_iff_ne.mpr hdx⟩

theorem catchAllExcept_caughtUp : CaughtUpBut x T s (catchAllExcept catchUp x T s) :=
  foldl_catchUp_caughtUp (catchAllExcept_slots_ne_zero x s) (mem_catchAllExcept_slots x s)

theorem catchAllExcept_ran : RanBut x T s (catchAllExcept catchUp x T s) :=
  foldl_catchUp_ran (catchAllExcept_slots_ne_zero x s) (mem_catchAllExcept_slots x s)

/-- After catching the others up nobody else is behind: a slot still enabled and not jammed was left as it was, which it would not
have been if behind, or is at the target (40_clock_converter.md R140). -/
theorem catchAllExcept_nobodyBehind : (catchAllExcept catchUp x T s).nobodyBehind x T := by
  intro d hd hdx
  have hsettled : Settled T s (catchAllExcept catchUp x T s) := catchAllExcept_settled (catchUp_settles T)
  rcases hsettled.all d with hsame | ⟨_, hT, _⟩
  · by_contra hnot
    simp only [not_or, Bool.not_eq_false, Bool.not_eq_true, not_le] at hnot
    obtain ⟨hen, hjam, hbehind⟩ := hnot
    rw [hsame] at hen hjam
    have hbehind' : 0 < s.params.sdiff T (s.drive d).lastSync := by rwa [hsame, hsettled.params] at hbehind
    obtain ⟨harrived, _⟩ := catchAllExcept_caughtUp x T s d (hsettled.params ▸ hd) hdx hen hjam hbehind'
    rw [harrived, Params.sdiff_self] at hbehind
    exact lt_irrefl 0 hbehind
  · rw [hT, Params.sdiff_self]
    exact .inr (.inr le_rfl)

variable {x T s}

/-- When nobody else is behind, nothing changes (40_clock_converter.md R137). -/
theorem catchAllExcept_idle (h : s.nobodyBehind x T) : catchAllExcept catchUp x T s = s := by
  refine foldl_catchUp_idle fun d hd => ?_
  obtain ⟨hd, hdx⟩ := List.mem_filter.mp hd
  exact h d ((s.params.mem_driveSlots d).mp hd) (bne_iff_ne.mp hdx)

/-- Who is behind depends on the parameters and the drive registers only. -/
theorem State.nobodyBehind.congr {t : State} (h : s.nobodyBehind x T) (hp : t.params = s.params)
    (hd : ∀ d, t.drive d = s.drive d) : t.nobodyBehind x T := by
  intro d hdrive hdx
  rw [hp] at hdrive ⊢
  rw [hd]
  exact h d hdrive hdx

end CatchAllExcept

/-! OUTCHG: the notification itself (42_bus_arbiter.md R177). -/

/-- A pull-only participant that reports driving actively is logged. -/
def State.clampLogged (p : Slot) (act : Bool) (st : State) : State :=
  if act = true ∧ (st.part p).mode = .pullOnly then { st with err := st.err ||| 0x008, errSlot := p } else st

/-- What a bus notification does once everybody else is caught up: it logs a misconfiguration, stores the byte and resolves. -/
def State.notified (p : Slot) (byte : Byte) (act : Bool) (st : State) : State :=
  ((st.clampLogged p act).updPart p (fun x => { x with out := byte })).resolve

/-- Storing the byte that stands there. -/
theorem State.updPart_out_self {st : State} {p : Slot} {byte : Byte} (h : (st.part p).out = byte) :
    st.updPart p (fun x => { x with out := byte }) = st := by
  subst h
  exact congrArg (fun parts => { st with parts := parts }) (st.parts.write_read_self p)

/-- Recording what is recorded. -/
theorem State.withErr_self {st : State} {err : BitVec 10} {errSlot : Slot} (herr : st.err = err)
    (hslot : st.errSlot = errSlot) : { st with err := err, errSlot := errSlot } = st := by
  subst herr hslot
  rfl

section Notified

variable (p : Slot) (byte : Byte) (act : Bool) (st : State)

/-- A bus notification is its catch-ups and then the notification itself. -/
theorem outChg_eq_notified (catchIt : CatchUp) (T : Clock) :
    outChg catchIt p byte act T st = (catchAllExcept catchIt p T st).notified p byte act := rfl

theorem State.clampLogged_params : (st.clampLogged p act).params = st.params := by
  unfold State.clampLogged
  split <;> rfl

theorem State.clampLogged_drive (d : Slot) : (st.clampLogged p act).drive d = st.drive d := by
  unfold State.clampLogged
  split <;> rfl

theorem State.clampLogged_part (q : Slot) : (st.clampLogged p act).part q = st.part q := by
  unfold State.clampLogged
  split <;> rfl

theorem State.notified_params : (st.notified p byte act).params = st.params := by
  rw [State.notified, State.resolve_params, State.updPart_params, State.clampLogged_params]

theorem State.notified_drive (d : Slot) : (st.notified p byte act).drive d = st.drive d := by
  rw [State.notified, State.resolve_drive, State.updPart_drive, State.clampLogged_drive]

theorem State.notified_out : ((st.notified p byte act).part p).out = byte := by
  rw [State.notified, State.resolve_part, State.updPart_part_same]

theorem State.notified_mode : ((st.notified p byte act).part p).mode = (st.part p).mode := by
  rw [State.notified, State.resolve_part, State.updPart_part_same, State.clampLogged_part]

theorem State.notified_err : (st.notified p byte act).err = (st.clampLogged p act).err := by
  rw [State.notified, State.resolve_err, State.updPart_err]

theorem State.notified_errSlot : (st.notified p byte act).errSlot = (st.clampLogged p act).errSlot := by
  rw [State.notified, State.resolve_errSlot, State.updPart_errSlot]

/-- A misconfiguration logged is not logged anew: its bit is sticky and it names the same slot (60_exceptions.md R290). -/
theorem State.clampLogged_notified : (st.notified p byte act).clampLogged p act = st.notified p byte act := by
  by_cases hclamp : act = true ∧ (st.part p).mode = .pullOnly
  · have hlogged : st.clampLogged p act = { st with err := st.err ||| 0x008, errSlot := p } := if_pos hclamp
    rw [State.clampLogged, if_pos (by rwa [State.notified_mode])]
    refine State.withErr_self ?_ ?_
    · rw [State.notified_err, hlogged, BitVec.or_assoc, BitVec.or_self]
    · rw [State.notified_errSlot, hlogged]
  · rw [State.clampLogged, if_neg (by rwa [State.notified_mode])]

/-- The same notification a second time logs, stores and resolves nothing new (42_bus_arbiter.md R183). -/
theorem State.notified_notified : (st.notified p byte act).notified p byte act = st.notified p byte act := by
  have hstored : (st.notified p byte act).updPart p (fun x => { x with out := byte }) = st.notified p byte act :=
    State.updPart_out_self (State.notified_out p byte act st)
  have hcoherent : (st.notified p byte act).BusCoherent := State.resolve_coherent _
  rw [State.notified, State.clampLogged_notified, hstored, State.resolve_of_coherent hcoherent]

/-- A bus notification is idempotent: after it nobody else is behind and the byte stands (42_bus_arbiter.md R183). -/
theorem outChg_outChg (T : Clock) :
    outChg catchUp p byte act T (outChg catchUp p byte act T st) = outChg catchUp p byte act T st := by
  have hnobody : ((catchAllExcept catchUp p T st).notified p byte act).nobodyBehind p T :=
    (catchAllExcept_nobodyBehind p T st).congr (State.notified_params ..) (State.notified_drive p byte act _)
  simp only [outChg_eq_notified]
  rw [catchAllExcept_idle hnobody, State.notified_notified]

theorem outChg_params (T : Clock) : (outChg catchUp p byte act T st).params = st.params :=
  (outChg_settled (catchUp_settles T)).params

end Notified

/-- Settles O37: the state between is the one after the catch-ups, which leave the mode alone. -/
theorem outchgCatchesUpThenResolves : Obligations.OutchgCatchesUpThenResolves := by
  intro s p act byte clk hlive hp
  have hframe := catchAllExcept_frame p (s.params.wrap clk) s
  obtain ⟨hmode, _⟩ := hframe.kept.part p
  refine ⟨_, _, hframe, catchAllExcept_caughtUp p _ s, catchAllExcept_ran p _ s, catchAllExcept_idle,
    exec_part_live rfl hlive hp, ?_⟩
  rw [← hmode]
  exact State.resolve_resolved _

/-- Settles O38: the command is its notification, and that is idempotent. -/
theorem outchgTwiceIsOutchgOnce : Obligations.OutchgTwiceIsOutchgOnce := by
  intro s t p act byte clk h
  have hparams := outChg_params p byte act s (s.clock clk)
  refine exec_part_idempotent (f := fun st => outChg catchUp p byte act (st.clock clk) st) rfl hparams ?_ h
  show outChg catchUp p byte act ((outChg catchUp p byte act (s.clock clk) s).clock clk) _ = _
  rw [State.clock, hparams]
  exact outChg_outChg p byte act s (s.clock clk)

/-- Settles O39: SETMODE is a write of the mode and a resolution, FASTNEG the write of one bit. -/
theorem setmodeAndFastnegWriteTheirFlags : Obligations.SetmodeAndFastnegWriteTheirFlags := by
  intro s p hlive hp
  refine ⟨fun mode => ⟨_, ?_, State.resolve_resolved _⟩, fun on => ?_⟩
  · exact exec_part_live (f := fun st => (st.updPart p (fun x => { x with mode := mode })).resolve) rfl hlive hp
  · exact exec_part_live (f := fun st => st.updPart p (fun x => { x with fastneg := on })) rfl hlive hp

/-! FAST (42_bus_arbiter.md R181). -/

/-- The fast transfer's effect, register by register. -/
theorem Chip.fast_eq (c : Chip) (b : Byte) : c.fast b = { c with
    sr := if c.cr.getLsbD 2 then b else c.sr
    ifr := if c.cr.getLsbD 2 then c.ifr ||| 0b10000 else c.ifr
    cl := if b.getLsbD 0 then c.cl ||| 0b1100 else (c.cl ||| 0b0100) &&& 0b0111 } := by
  have hhigh : c.cl ||| 0b0100 ||| 0b1000 = c.cl ||| 0b1100 := BitVec.or_assoc ..
  unfold Chip.fast Chip.shiftEnabled
  cases c.cr.getLsbD 2 <;> cases b.getLsbD 0
  · rfl
  · exact congrArg (fun cl => { c with cl := cl }) hhigh
  · rfl
  · exact congrArg (fun cl => { c with sr := b, ifr := c.ifr ||| 0b10000, cl := cl }) hhigh

theorem fastTarget_eq {d target : Slot} {dir : Direction} (hdrive : dir = .hostToDrive → target = d)
    (hhost : dir = .driveToHost → target = 0) : fastTarget d dir = target := by
  cases dir with
  | hostToDrive => exact (hdrive rfl).symm
  | driveToHost => exact (hhost rfl).symm

theorem State.fastReady_iff (st : State) (d : Slot) : st.fastReady d = true ↔
    (st.part 0).fastneg = true ∧ (st.part d).fastneg = true ∧ (st.drive d).en = true := by
  rw [State.fastReady, Bool.and_eq_true, Bool.and_eq_true, and_assoc]

theorem State.not_fastReady_iff (st : State) (d : Slot) : st.fastReady d = false ↔
    (st.part 0).fastneg = false ∨ (st.part d).fastneg = false ∨ (st.drive d).en = false := by
  rw [State.fastReady, Bool.and_eq_false_iff, Bool.and_eq_false_iff, or_assoc]

/-- Settles O40: whether both ends are ready decides between the transfer and FastNotNegotiated. -/
theorem fastDeliversTheByteOrRefuses : Obligations.FastDeliversTheByteOrRefuses := by
  intro s d target dir byte hlive hd hdrive hhost
  refine ⟨fun hready => ?_, fun hrefused => ?_⟩
  · refine (exec_drive_live rfl hlive hd).trans ?_
    rw [if_pos ((s.fastReady_iff d).mpr hready), fastTarget_eq hdrive hhost]
    simp only [Chip.fast_eq]
  · refine (exec_drive_live rfl hlive hd).trans ?_
    rw [(s.not_fastReady_iff d).mpr hrefused]
    rfl

end Sys2Proof.Machine

/-! What the timers do tick by tick (spec/43_peripheral_chip.md R204, R205): a timer expires on the tick after its count reaches 0,
and the earlier of the two expiries is where a timer flag is next set. -/

namespace Sys2Proof.Machine

section Expiry

variable {t : Timer} {freeRun : Bool} {n : Nat}

/-- The closed form of a timer's ticks is the loop (43_peripheral_chip.md R204, R205; log entry 11). -/
theorem Timer.tick_eq_tickLoop : t.tick freeRun n = Timer.tickLoop freeRun n t := by
  induction n generalizing t with
  | zero => exact Timer.tick_zero
  | succ n ih => rw [Timer.tick_succ, ih, Timer.tickLoop]

/-- A timer expires when it runs and is given more ticks than its count. -/
theorem Timer.tick_expired_iff : (t.tick freeRun n).2 = true ↔ t.run = true ∧ t.count.toNat < n := by
  cases hrun : t.run with
  | false => simp [Timer.tick_halted hrun]
  | true =>
    by_cases hn : n ≤ t.count.toNat
    · simp [Timer.tick_within hrun hn, hn]
    · simp [Timer.tick_past hrun (Nat.not_le.mp hn), Nat.not_le.mp hn]

end Expiry

section ChipExpiry

variable {c : Chip} {n : Nat}

/-- `TicksToExpiry` is the minimum over the running timers (43_peripheral_chip.md R205). -/
theorem Chip.ticksToExpiry_eq_some_iff : c.ticksToExpiry = some n ↔
    ((c.t1.run = true ∧ n = c.t1.count.toNat + 1) ∨ (c.t2.run = true ∧ n = c.t2.count.toNat + 1)) ∧
      (c.t1.run = true → n ≤ c.t1.count.toNat + 1) ∧ (c.t2.run = true → n ≤ c.t2.count.toNat + 1) := by
  unfold Chip.ticksToExpiry
  cases c.t1.run <;> cases c.t2.run <;>
    simp only [Option.some.injEq, reduceCtorEq, Bool.false_eq_true, true_implies, false_implies, true_and, and_true, false_and,
      or_false, false_or] <;>
    omega

/-- `TicksToExpiry` is infinite when both timers are halted. -/
theorem Chip.ticksToExpiry_eq_none_iff : c.ticksToExpiry = none ↔ c.t1.run = false ∧ c.t2.run = false := by
  unfold Chip.ticksToExpiry
  cases c.t1.run <;> cases c.t2.run <;> simp

/-- Ticks on which neither timer expires set no flag. -/
theorem Chip.tick_ifr_quiet (h1 : (c.t1.tick c.t1FreeRun n).2 = false) (h2 : (c.t2.tick c.t2FreeRun n).2 = false) :
    (c.tick n).ifr = c.ifr := by
  simp [Chip.tick, h1, h2]

/-- Ticks on which a timer expires set a timer flag. -/
theorem Chip.tick_ifr_expired (h : (c.t1.tick c.t1FreeRun n).2 = true ∨ (c.t2.tick c.t2FreeRun n).2 = true) :
    (c.tick n).ifr &&& 0b01100 ≠ 0 := by
  have hflag1 : ∀ x y : BitVec 5, (x ||| IrqSource.t1.bit ||| y) &&& 0b01100 ≠ 0 := by decide
  have hflag2 : ∀ x : BitVec 5, (x ||| IrqSource.t2.bit) &&& 0b01100 ≠ 0 := by decide
  rcases h with h | h
  · rw [Chip.tick, h]
    exact hflag1 _ _
  · rw [Chip.tick, h]
    exact hflag2 _

/-- Halted timers are not changed by ticks. -/
theorem Chip.tick_halted (h1 : c.t1.run = false) (h2 : c.t2.run = false) : c.tick n = c := by
  simp [Chip.tick, Timer.tick_halted h1, Timer.tick_halted h2]

end ChipExpiry

/-- Settles O31: the closed forms are the loops, and a timer expires on the tick after its count, not before. -/
theorem timersKeepTheirClosedForm : Obligations.TimersKeepTheirClosedForm := by
  refine ⟨fun t freeRun n hrun => ?_, Chip.tick_eq_tickLoop, fun c n => Chip.ticksToExpiry_eq_some_iff,
    fun c n hnext _ => ⟨fun m hm => ?_, ?_⟩, fun c n hnone => ?_⟩
  · rw [← Timer.tick_eq_tickLoop, Timer.tick, if_pos hrun]
  · obtain ⟨_, hfirst1, hfirst2⟩ := Chip.ticksToExpiry_eq_some_iff.mp hnext
    rw [← Chip.tick_eq_tickLoop]
    refine Chip.tick_ifr_quiet ?_ ?_
    · rw [← Bool.not_eq_true, Timer.tick_expired_iff]
      exact fun ⟨hrun, hcount⟩ => absurd (hfirst1 hrun) (by omega)
    · rw [← Bool.not_eq_true, Timer.tick_expired_iff]
      exact fun ⟨hrun, hcount⟩ => absurd (hfirst2 hrun) (by omega)
  · obtain ⟨hreach, _⟩ := Chip.ticksToExpiry_eq_some_iff.mp hnext
    rw [← Chip.tick_eq_tickLoop]
    refine Chip.tick_ifr_expired ?_
    simp only [Timer.tick_expired_iff]
    exact hreach.imp (fun ⟨hrun, hn⟩ => ⟨hrun, by omega⟩) fun ⟨hrun, hn⟩ => ⟨hrun, by omega⟩
  · obtain ⟨h1, h2⟩ := Chip.ticksToExpiry_eq_none_iff.mp hnone
    rw [← Chip.tick_eq_tickLoop]
    exact Chip.tick_halted h1 h2

end Sys2Proof.Machine

/-! The reads and stores of a chip's registers (spec/43_peripheral_chip.md R206 to R239): one equation for the reads and one for
the stores, over the register; the commands are its instances. -/

namespace Sys2Proof.Machine

/-! Changing one slot's registers. -/

/-- Of a change of a chip only its value at that chip counts. -/
theorem State.updChip_congr {st : State} {p : Slot} {f g : Chip → Chip} (h : f (st.chip p) = g (st.chip p)) :
    st.updChip p f = st.updChip p g := by
  have hpart : { st.part p with chip := f (st.part p).chip } = { st.part p with chip := g (st.part p).chip } :=
    congrArg (fun c => { st.part p with chip := c }) h
  simp only [State.updChip, State.updPart, hpart]

theorem State.updPart_updPart (st : State) (p : Slot) (f g : Part → Part) :
    (st.updPart p f).updPart p g = st.updPart p (fun x => g (f x)) := by
  simp [State.updPart, State.part]

theorem State.updChip_updChip (st : State) (p : Slot) (f g : Chip → Chip) :
    (st.updChip p f).updChip p g = st.updChip p (fun c => g (f c)) := State.updPart_updPart ..

/-! Reads. -/

section Reads

variable {s : State} {p : Slot} {r : ChipReg} {clk : Clock}

/-- A read command is the read, its byte written to `RES` (43_peripheral_chip.md R206). -/
theorem exec_rd_live (hlive : s.err.getLsbD 0 = false) (hp : s.params.isPart p = true) : exec (Instr.rd r p clk) s =
    .next ((chipRead catchUp p r (s.clock clk) s).2.setRes (chipRead catchUp p r (s.clock clk) s).1.toNat) :=
  (exec_rd r p clk s).trans (partCommand_live hlive hp _)

/-- A read of any register but the host's port B returns the register and then has its side effect on the chip. -/
theorem exec_rd_plain (hlive : s.err.getLsbD 0 = false) (hp : s.params.isPart p = true) (hr : p ≠ 0 ∨ r ≠ .pb) :
    exec (Instr.rd r p clk) s = .next ((s.latched p ((s.chip p).readValue r s.bus (s.part p).paIn)).updChip p
      (fun c => c.afterRead r)) := by
  rw [exec_rd_live hlive hp, chipRead_plain hr, State.setRes_byte, State.latched, State.updChip, State.updPart_updPart]
  rfl

/-- RD.IFR is the only read that changes the chip (20_memory.md R79). -/
theorem Chip.afterRead_of_ne_ifr (hr : r ≠ .ifr) : (fun c : Chip => c.afterRead r) = id := by
  funext c
  cases r with
  | ifr => exact absurd rfl hr
  | pb | pa | ddrb | ddra | t1cl | t1ch | t1ll | t1lh | t2cl | t2ch | t2ll | t2lh | sr | cr | ier => rfl

/-- A read of any register but the host's port B and the flags returns the register and changes nothing else. -/
theorem exec_rd_register (hlive : s.err.getLsbD 0 = false) (hp : s.params.isPart p = true) (hr : p ≠ 0 ∨ r ≠ .pb)
    (hifr : r ≠ .ifr) :
    exec (Instr.rd r p clk) s = .next (s.latched p ((s.chip p).readValue r s.bus (s.part p).paIn)) := by
  rw [exec_rd_plain hlive hp hr, Chip.afterRead_of_ne_ifr hifr, State.updChip_id]

end Reads

/-- Settles O42: each is a read of its register. -/
theorem plainReadsReturnTheirRegister : Obligations.PlainReadsReturnTheirRegister := by
  intro s p clk hlive hp
  have hread : ∀ r : ChipReg, r ≠ .pb → r ≠ .ifr → exec (Instr.rd r p clk) s =
      .next (s.latched p ((s.chip p).readValue r s.bus (s.part p).paIn)) :=
    fun r hpb => exec_rd_register hlive hp (.inr hpb)
  exact ⟨hread .pa nofun nofun, hread .ddrb nofun nofun, hread .ddra nofun nofun, hread .t1cl nofun nofun,
    hread .t1ch nofun nofun, hread .t1ll nofun nofun, hread .t1lh nofun nofun, hread .t2cl nofun nofun,
    hread .t2ch nofun nofun, hread .t2ll nofun nofun, hread .t2lh nofun nofun, hread .sr nofun nofun,
    hread .cr nofun nofun, hread .ier nofun nofun⟩

/-! RD.IFR (43_peripheral_chip.md R236). -/

theorem decode_rdIfr (p : Slot) (a : Clock) (n : BitVec 32) (bs : List Byte) :
    decode ⟨headerOf 0x400E0000 p false 0, a, n, bs⟩ = .ok (.rdIfr p a) := by
  have hheader : headerOf 0x400E0000 p false 0 = Fields.toHeader { Fields.base 0x40 p with reg := ChipReg.ifr.index } :=
    headerOf_toHeader 0x40 ChipReg.ifr.index p false 0
  rw [hheader]
  exact decode_command (opa := a) (opb := n) (sdat := bs) (.rd (r := .ifr) rfl rfl) rfl

/-- The interrupt line is high when an enabled flag stands (43_peripheral_chip.md R203). -/
theorem Chip.irq_iff (c : Chip) : c.irq = true ↔ ∃ k, k < 5 ∧ c.ifr.getLsbD k = true ∧ c.ier.getLsbD k = true := by
  rw [Chip.irq, bne_iff_ne, ne_eq, ← not_iff_not, not_not]
  refine ⟨fun hzero ⟨k, _, hflag, henable⟩ => ?_, fun hnone => BitVec.eq_of_getLsbD_eq fun k hk => ?_⟩
  · have hbit := congrArg (fun x : BitVec 5 => x.getLsbD k) hzero
    simp [hflag, henable] at hbit
  · rw [BitVec.getLsbD_and]
    simp only [not_exists, not_and, Bool.not_eq_true] at hnone
    cases hflag : c.ifr.getLsbD k with
    | false => simp
    | true => simp [hnone k hk hflag]

theorem ofBool_eq_of_iff {b : Bool} {x : BitVec 1} (h : x = 1 ↔ b = true) : BitVec.ofBool b = x := by
  revert h
  revert b x
  decide

/-- Settles O43: the value is read before the side effect, which keeps flags 2 to 4. -/
theorem rdIfrClearsTheEdgeFlags : Obligations.RdIfrClearsTheEdgeFlags := by
  refine ⟨decode_rdIfr, fun s p clk irq hlive hp hirq => ?_⟩
  have hline : BitVec.ofBool (s.chip p).irq = irq := ofBool_eq_of_iff (hirq.trans (s.chip p).irq_iff.symm)
  rw [← hline]
  exact exec_rd_plain (r := .ifr) hlive hp (.inr nofun)

/-! RD.PB (43_peripheral_chip.md R208). -/

/-- The host's RD.PB reads after everybody is caught up and the bus resolved. -/
theorem exec_rdPb_host {s : State} {clk : Clock} (hlive : s.err.getLsbD 0 = false) :
    let t := (catchAll catchUp (s.clock clk) s).resolve
    exec (.rdPb 0 clk) s = .next (t.latched 0 ((t.chip 0).readValue .pb t.bus (t.part 0).paIn)) := by
  have hp : s.params.isPart 0 = true := by simp [Params.isPart]
  refine (exec_rd_live (r := .pb) hlive hp).trans ?_
  rw [chipRead_host, State.setRes_byte]
  rfl

theorem exec_syncall_live {s : State} {clk : Clock} (hlive : s.err.getLsbD 0 = false) :
    exec (.syncall clk) s = .next (catchAll catchUp (s.clock clk) s) :=
  exec_command_live (f := fun st => catchAll catchUp (st.clock clk) st) rfl hlive

/-- Settles O44: a drive's read looks at the bus as it is; the host's is a SYNCALL, a resolution and a look at the bus. -/
theorem rdPbSynchronisesTheHostOnly : Obligations.RdPbSynchronisesTheHostOnly := by
  refine ⟨fun s p clk hlive hd => ?_, fun s clk hlive => ?_⟩
  · exact exec_rd_register (r := .pb) hlive (Params.isPart_of_isDrive hd) (.inl (Params.isDrive_ne_zero hd)) nofun
  · obtain ⟨u, hsyncall, hframe, hcaughtUp, hran, hidle⟩ := syncallBringsEveryDriveToTheTarget s clk hlive
    have hu : catchAll catchUp (s.clock clk) s = u := by
      rw [exec_syncall_live hlive] at hsyncall
      exact Host.Outcome.next.inj hsyncall
    refine ⟨u, u.resolve, hframe, hcaughtUp, hran, hidle, u.resolve_resolved, ?_⟩
    rw [exec_rdPb_host hlive, hu]
    rfl

/-! Stores. -/

section Stores

variable {s : State} {p : Slot} {r : ChipReg} {rmw : Bool} {b : Byte} {clk : Clock}

/-- A store command is the store (43_peripheral_chip.md R207). -/
theorem exec_wr_live (hlive : s.err.getLsbD 0 = false) (hp : s.params.isPart p = true) :
    exec (Instr.wr r p rmw b clk) s = .next (chipStore catchUp p r b rmw (s.clock clk) s) :=
  (exec_wr r p rmw b clk s).trans (partCommand_live hlive hp _)

theorem Timer.setLatchLow_setLatchLow (t : Timer) (x y : Byte) : (t.setLatchLow x).setLatchLow y = t.setLatchLow y := by
  simp only [Timer.setLatchLow, Timer.mk.injEq, true_and, and_true]
  ext k
  grind

theorem Timer.setLatchHigh_setLatchHigh (t : Timer) (x y : Byte) : (t.setLatchHigh x).setLatchHigh y = t.setLatchHigh y := by
  simp only [Timer.setLatchHigh, Timer.mk.injEq, true_and, and_true]
  ext k
  grind

/-- Loading the counter twice is loading it from the last latch. -/
theorem Timer.start_setLatchHigh_start (t : Timer) (x y : Byte) :
    ((t.setLatchHigh x).start.setLatchHigh y).start = (t.setLatchHigh y).start := by
  have h := congrArg Timer.latch (t.setLatchHigh_setLatchHigh x y)
  exact congrArg (fun latch => (⟨latch, latch, true⟩ : Timer)) h

/-- A second store overwrites the first, but for the flags, which each store clears some of (43_peripheral_chip.md R237). -/
theorem Chip.store_store (c : Chip) (hifr : r ≠ .ifr) (x y : Byte) : (c.store r x).store r y = c.store r y := by
  cases r with
  | ifr => exact absurd rfl hifr
  | pb | pa | ddrb | ddra | sr | cr | ier => rfl
  | t1cl | t1ll => exact congrArg (fun t => { c with t1 := t }) (c.t1.setLatchLow_setLatchLow x y)
  | t2cl | t2ll => exact congrArg (fun t => { c with t2 := t }) (c.t2.setLatchLow_setLatchLow x y)
  | t1lh => exact congrArg (fun t => { c with t1 := t }) (c.t1.setLatchHigh_setLatchHigh x y)
  | t2lh => exact congrArg (fun t => { c with t2 := t }) (c.t2.setLatchHigh_setLatchHigh x y)
  | t1ch => exact congrArg (fun t => { c with t1 := t }) (c.t1.start_setLatchHigh_start x y)
  | t2ch => exact congrArg (fun t => { c with t2 := t }) (c.t2.start_setLatchHigh_start x y)

/-- A store to a register that notifies nobody writes the chip, the latched byte first in a read-modify-write. -/
theorem exec_wr_plain (hlive : s.err.getLsbD 0 = false) (hp : s.params.isPart p = true) (hr : notifiesArbiter r = false) :
    exec (Instr.wr r p rmw b clk) s = .next (s.updChip p
      (fun c => (if rmw then c.store r (s.part p).rmwVal else c).store r b)) := by
  rw [exec_wr_live hlive hp, chipStore_plain hr]

/-- Of such a store only the new byte is seen, but in the flags. -/
theorem exec_wr_overwrites (hlive : s.err.getLsbD 0 = false) (hp : s.params.isPart p = true) (hr : notifiesArbiter r = false)
    (hifr : r ≠ .ifr) : exec (Instr.wr r p rmw b clk) s = .next (s.updChip p (fun c => c.store r b)) := by
  rw [exec_wr_plain hlive hp hr]
  cases rmw with
  | false => rfl
  | true => simp only [if_true, Chip.store_store _ hifr]

end Stores

/-- A port shows its latch on output bits and 1 on input bits (43_peripheral_chip.md R202). -/
theorem portLevel_getLsbD {latch ddr : Byte} {k : Nat} (hk : k < 8) :
    (portLevel latch ddr).getLsbD k = true ↔ ddr.getLsbD k = false ∨ latch.getLsbD k = true := by
  simp only [portLevel, BitVec.getLsbD_or, BitVec.getLsbD_and, BitVec.getLsbD_not, hk, decide_true, Bool.true_and]
  cases latch.getLsbD k <;> cases ddr.getLsbD k <;> decide

/-- Settles O45: each is a store that overwrites its register. -/
theorem plainStoresWriteTheirRegister : Obligations.PlainStoresWriteTheirRegister := by
  intro s p rmw b clk hlive hp
  have hstore : ∀ r : ChipReg, notifiesArbiter r = false → r ≠ .ifr →
      exec (Instr.wr r p rmw b clk) s = .next (s.updChip p (fun c => c.store r b)) :=
    fun _ => exec_wr_overwrites hlive hp
  exact ⟨hstore .pa rfl nofun, hstore .ddra rfl nofun, hstore .sr rfl nofun, hstore .cr rfl nofun, hstore .ier rfl nofun,
    fun k hk => portLevel_getLsbD hk⟩

/-- Settles O46: each is a store that overwrites its byte of the latch. -/
theorem timerStoresWriteTheLatch : Obligations.TimerStoresWriteTheLatch := by
  intro s p rmw b clk hlive hp
  have hstore : ∀ r : ChipReg, notifiesArbiter r = false → r ≠ .ifr →
      exec (Instr.wr r p rmw b clk) s = .next (s.updChip p (fun c => c.store r b)) :=
    fun _ => exec_wr_overwrites hlive hp
  exact ⟨hstore .t1cl rfl nofun, hstore .t1ll rfl nofun, hstore .t1lh rfl nofun, hstore .t1ch rfl nofun,
    hstore .t2cl rfl nofun, hstore .t2ll rfl nofun, hstore .t2lh rfl nofun, hstore .t2ch rfl nofun⟩

/-! WR.IFR (43_peripheral_chip.md R237). -/

/-- A store to the flags writes nothing else. -/
theorem Chip.store_ifr (c : Chip) (x : Byte) : c.store .ifr x = { c with ifr := (c.store .ifr x).ifr } := rfl

/-- A flag stands after a store when it stood and was not selected. -/
theorem Chip.store_ifr_getLsbD (c : Chip) (x : Byte) {k : Nat} (hk : k < 5) :
    (c.store .ifr x).ifr.getLsbD k = true ↔ c.ifr.getLsbD k = true ∧ x.getLsbD k = false := by
  simp [Chip.store, hk]

/-- Settles O47: the store of the latched byte, where there is one, clears the flags it selects first. -/
theorem wrIfrClearsSelectedFlags : Obligations.WrIfrClearsSelectedFlags := by
  intro s p rmw b clk hlive hp
  refine ⟨_, exec_wr_plain (r := .ifr) hlive hp rfl, State.updChip_congr ?_, fun k hk => ?_⟩
  · rw [State.updChip_chip_same]
    cases rmw <;> rfl
  · rw [State.updChip_chip_same, Chip.store_ifr_getLsbD _ _ hk]
    cases rmw with
    | false => simp
    | true => simp [Chip.store_ifr_getLsbD _ _ hk, and_right_comm, and_assoc]

/-! WR.PB and WR.DDRB (43_peripheral_chip.md R209, R213). -/

/-- A bus notification keeps the fatal flag: the conditions it can meet are not fatal (60_exceptions.md R291). -/
theorem outChg_fatal (p : Slot) (byte : Byte) (act : Bool) (T : Clock) (st : State) :
    (outChg catchUp p byte act T st).fatal = st.fatal := by
  refine Eq.trans ?_ (catchAllExcept_frame p T st).kept.fatal
  rw [outChg_eq_notified, State.fatal, State.notified_err, State.clampLogged]
  split
  · exact (BitVec.getLsbD_or ..).trans (Bool.or_false _)
  · rfl

theorem exec_outchg_live {s : State} {p : Slot} {byte : Byte} {act : Bool} {clk : Clock} (hlive : s.err.getLsbD 0 = false)
    (hp : s.params.isPart p = true) :
    exec (.outchg p act byte clk) s = .next (outChg catchUp p byte act (s.clock clk) s) :=
  exec_part_live (f := fun st => outChg catchUp p byte act (st.clock clk) st) rfl hlive hp

section Notifying

variable {s : State} {p : Slot} {r : ChipReg} {b : Byte} {clk T : Clock}

theorem exec_wr_once (hlive : s.err.getLsbD 0 = false) (hp : s.params.isPart p = true) :
    exec (Instr.wr r p false b clk) s = .next (storeOne catchUp p r b (s.clock clk) s) :=
  exec_wr_live hlive hp

theorem storeOne_fatal (hr : notifiesArbiter r = true) : (storeOne catchUp p r b T s).fatal = s.fatal := by
  rw [storeOne_notifies hr, outChg_fatal]
  rfl

theorem storeOne_params (hr : notifiesArbiter r = true) : (storeOne catchUp p r b T s).params = s.params := by
  rw [storeOne_notifies hr, outChg_params]
  rfl

/-- A store to PB or DDRB is the store and an OUTCHG with the chip's effective output and ACTV bit (42_bus_arbiter.md R182; log
entry 20). -/
theorem exec_wr_notifies (hlive : s.err.getLsbD 0 = false) (hp : s.params.isPart p = true) (hr : notifiesArbiter r = true) :
    exec (Instr.wr r p false b clk) s =
      exec (.outchg p ((s.chip p).store r b).drivesActively ((s.chip p).store r b).effOut clk)
        (s.updChip p (fun c => c.store r b)) := by
  rw [exec_wr_once hlive hp, storeOne_notifies hr]
  exact (exec_outchg_live (s := s.updChip p (fun c => c.store r b)) hlive hp).symm

/-- A read-modify-write of PB or DDRB is the store of the latched byte and then the store of the new one
(43_peripheral_chip.md R207). -/
theorem exec_wr_rmw (hlive : s.err.getLsbD 0 = false) (hp : s.params.isPart p = true) (hr : notifiesArbiter r = true) :
    ∃ u t, exec (Instr.wr r p true b clk) s = .next t ∧ exec (Instr.wr r p false (s.part p).rmwVal clk) s = .next u ∧
      exec (Instr.wr r p false b clk) u = .next t := by
  refine ⟨_, _, exec_wr_live hlive hp, exec_wr_once hlive hp, ?_⟩
  rw [exec_wr_once ((storeOne_fatal hr).trans hlive) ((storeOne_params hr).symm ▸ hp), State.clock, storeOne_params hr]
  rfl

end Notifying

/-- Settles O48: both are stores that notify; the bytes named are the effective output after each. -/
theorem portBStoresNotifyTheArbiter : Obligations.PortBStoresNotifyTheArbiter := by
  intro s p b clk hlive hp
  have hstore (r : ChipReg) : ∃ t, exec (Instr.wr r p false b clk) s = .next t := ⟨_, exec_wr_live hlive hp⟩
  refine ⟨?_, ?_, exec_wr_rmw (r := .pb) hlive hp rfl, exec_wr_rmw (r := .ddrb) hlive hp rfl⟩
  · obtain ⟨t, ht⟩ := hstore .pb
    exact ⟨t, ht, (exec_wr_notifies (r := .pb) hlive hp rfl).symm.trans ht⟩
  · obtain ⟨t, ht⟩ := hstore .ddrb
    exact ⟨t, ht, (exec_wr_notifies (r := .ddrb) hlive hp rfl).symm.trans ht⟩

end Sys2Proof.Machine

/-! The edge and level inputs of a chip (spec/43_peripheral_chip.md R240, R241), and the bit-serial path they spell (R242,
spec/30_encoding.md R110): a bit cell latches two levels and, when the shift register is enabled, shifts its bit in; eight cells are
the fast transfer. -/

namespace Sys2Proof.Machine

theorem isPart_of_le {P : Params} {p : Slot} (h : p.toNat ≤ P.ndrives) : P.isPart p = true := decide_eq_true h

theorem isPart_of_lt {P : Params} {p : Slot} (h : P.ndrives < p.toNat) : P.isPart p = false :=
  decide_eq_false (Nat.not_le.mpr h)

/-! PINA (43_peripheral_chip.md R241). -/

theorem decode_pina (p : Slot) (b : Byte) (a : Clock) (n : BitVec 32) (bs : List Byte) :
    decode ⟨headerOf 0x43000000 p false b, a, n, bs⟩ = .ok (.pina p b) := by
  have hheader : headerOf 0x43000000 p false b = Fields.toHeader { Fields.base 0x43 p with imm := b } :=
    headerOf_toHeader 0x43 0 p false b
  rw [hheader]
  exact decode_command (f := { Fields.base 0x43 p with imm := b }) (opa := a) (opb := n) (sdat := bs) (.pina rfl) rfl

/-- Settles O50: the command is the write of one register, or it is out of range. -/
theorem pinaSetsThePortAInput : Obligations.PinaSetsThePortAInput := by
  refine ⟨decode_pina, fun s p b hlive hp => ?_, fun s p b hlive hp => ?_⟩
  · exact exec_part_live (f := fun st => st.updPart p (fun x => { x with paIn := b })) rfl hlive (isPart_of_le hp)
  · have hfield : (Instr.pina p b).slotField = p := slotField_of_header rfl rfl
    exact (partCommand_outOfRange rfl hfield hlive (isPart_of_lt hp)).trans (by rw [hfield])

/-! SIGNAL (43_peripheral_chip.md R240). -/

theorem Edge.bit_eq (e : Edge) : e.bit = if e = .rise then 1 else 0 := by cases e <;> rfl

/-- The header of SIGNAL with its line and its edge put in one after the other. -/
theorem signalHeader_eq (p : Slot) (line : ControlLine) (e : Edge) :
    headerOf 0x42000000 p false 0 ||| (line.index.setWidth 32 <<< (16 : Nat))
      ||| ((if e = .rise then (1 : BitVec 32) else 0) <<< (9 : Nat)) =
      Fields.toHeader { Fields.base 0x42 p with reg := line.index, edge := e.bit } := by
  have hbase : headerOf 0x42000000 p false 0 = (Fields.base 0x42 p).toHeader := headerOf_toHeader 0x42 0 p false 0
  have hedge : (if e = .rise then (1 : BitVec 32) else 0) = e.bit.setWidth 32 := by cases e <;> rfl
  rw [hbase, hedge]
  apply BitVec.eq_of_getLsbD_eq
  intro k hk
  simp only [Fields.base, Fields.toHeader, BitVec.getLsbD_or, BitVec.getLsbD_shiftLeft, BitVec.getLsbD_setWidth,
    BitVec.getLsbD_append]
  interval_cases k <;> simp

theorem decode_signal (p : Slot) (line : ControlLine) (e : Edge) (a : Clock) (n : BitVec 32) (bs : List Byte) :
    decode ⟨headerOf 0x42000000 p false 0 ||| (line.index.setWidth 32 <<< (16 : Nat))
      ||| ((if e = .rise then (1 : BitVec 32) else 0) <<< (9 : Nat)), a, n, bs⟩ = .ok (.signal p line e) := by
  rw [signalHeader_eq]
  exact decode_command (opa := a) (opb := n) (sdat := bs) (.signal rfl line.ofIndex_index e.ofBit_bit)
    (Fields.fits_line _ p line e)

/-- The four levels with that of one line replaced (10_state.md R37). -/
def latchLevel (cl : BitVec 4) (level : BitVec 1) : ControlLine → BitVec 4
  | .cl1 => cl.extractLsb' 1 3 ++ level
  | .cl2 => cl.extractLsb' 2 2 ++ level ++ cl.extractLsb' 0 1
  | .cl3 => cl.extractLsb' 3 1 ++ level ++ cl.extractLsb' 0 2
  | .cl4 => level ++ cl.extractLsb' 0 3

/-- An edge replaces the level of its line. -/
theorem Chip.setLevel_edge (c : Chip) (line : ControlLine) (e : Edge) :
    c.setLevel line (edgeLevel e) = { c with cl := latchLevel c.cl e.bit line } := by
  have hlevels : ∀ cl : BitVec 4,
      (if edgeLevel e = true then cl ||| lineBit line else cl &&& ~~~lineBit line) = latchLevel cl e.bit line := by
    cases line <;> cases e <;> decide
  exact congrArg (fun cl => { c with cl := cl }) (hlevels c.cl)

/-- The level of line 4 as one bit. -/
theorem Chip.level_cl4 (c : Chip) : c.level .cl4 = (c.cl.extractLsb' 3 1 == 1) := by
  unfold Chip.level
  generalize c.cl = cl
  revert cl
  decide

theorem latchLevel_cl3_high (cl : BitVec 4) (level : BitVec 1) :
    (latchLevel cl level .cl3).extractLsb' 3 1 = cl.extractLsb' 3 1 := by
  revert cl level
  decide

/-- Shifting one bit in from line 4, register by register. -/
theorem Chip.shiftIn_eq (c : Chip) : c.shiftIn = { c with
    sr := c.sr.extractLsb' 0 7 ++ c.cl.extractLsb' 3 1
    srcnt := c.srcnt + 1
    ifr := if c.srcnt = 7 then c.ifr ||| 0b10000 else c.ifr } := by
  have hshift : ∀ (sr : Byte) (x : BitVec 1),
      (sr <<< (1 : Nat) ||| if (x == 1) = true then 1 else 0) = sr.extractLsb' 0 7 ++ x := by decide
  have hcount : c.srcnt + 1 = 0 ↔ c.srcnt = 7 := by
    generalize c.srcnt = n
    revert n
    decide
  unfold Chip.shiftIn
  simp only [Chip.level_cl4, hshift, hcount]
  split <;> rfl

section Signal

variable (c : Chip) (e : Edge)

theorem Chip.signal_cl1_eq : c.signal .cl1 e =
    { c with cl := latchLevel c.cl e.bit .cl1, ifr := c.ifr ||| 0b00001 } := by
  rw [Chip.signal, Chip.setLevel_edge]
  rfl

theorem Chip.signal_cl2_eq : c.signal .cl2 e =
    { c with cl := latchLevel c.cl e.bit .cl2, ifr := c.ifr ||| 0b00010 } := by
  rw [Chip.signal, Chip.setLevel_edge]
  rfl

theorem Chip.signal_cl4_eq : c.signal .cl4 e = { c with cl := latchLevel c.cl e.bit .cl4 } := by
  rw [Chip.signal, Chip.setLevel_edge]

/-- An edge on line 3 that shifts nothing: a falling one, or SREN clear. -/
theorem Chip.signal_cl3_quiet (h : e = .fall ∨ c.cr.getLsbD 2 = false) :
    c.signal .cl3 e = { c with cl := latchLevel c.cl e.bit .cl3 } := by
  have hquiet : ¬ (e = .rise ∧ c.shiftEnabled = true) := by
    rintro ⟨rfl, hshift⟩
    rcases h with h | h
    · cases h
    · rw [Chip.shiftEnabled, h] at hshift
      cases hshift
  rw [Chip.signal, Chip.setLevel_edge]
  exact if_neg hquiet

/-- A rising edge on line 3 with SREN set shifts the level of line 4 in. -/
theorem Chip.signal_cl3_shift (h : c.cr.getLsbD 2 = true) : c.signal .cl3 .rise = { c with
    cl := latchLevel c.cl 1 .cl3
    sr := c.sr.extractLsb' 0 7 ++ c.cl.extractLsb' 3 1
    srcnt := c.srcnt + 1
    ifr := if c.srcnt = 7 then c.ifr ||| 0b10000 else c.ifr } := by
  have hsignal : c.signal .cl3 .rise = (c.setLevel .cl3 (edgeLevel .rise)).shiftIn := if_pos ⟨rfl, h⟩
  rw [hsignal, Chip.setLevel_edge, Chip.shiftIn_eq]
  simp only [latchLevel_cl3_high]
  rfl

end Signal

theorem exec_signal_live {s : State} {p : Slot} {line : ControlLine} {e : Edge} (hlive : s.err.getLsbD 0 = false)
    (hp : s.params.isPart p = true) :
    exec (.signal p line e) s = .next (s.updChip p (fun c => c.signal line e)) :=
  exec_part_live (f := fun st => st.chipSignal p line e) rfl hlive hp

/-- Settles O49: the level and the flags of each line, and the shift on line 3. -/
theorem signalLatchesTheLine : Obligations.SignalLatchesTheLine := by
  refine ⟨decode_signal, fun s p line e hlive hp => ?_, fun s p e hlive hp => ?_⟩
  · have hfield : (Instr.signal p line e).slotField = p := slotField_of_header rfl rfl
    exact (partCommand_outOfRange rfl hfield hlive (isPart_of_lt hp)).trans (by rw [hfield])
  · have hsignal (line : ControlLine) : exec (.signal p line e) s = .next (s.updChip p (fun c => c.signal line e)) :=
      exec_signal_live hlive (isPart_of_le hp)
    rw [← Edge.bit_eq, hsignal, hsignal, hsignal, hsignal]
    refine ⟨?_, ?_, ?_, fun hquiet => ?_, ?_⟩
    · simp only [Chip.signal_cl1_eq, latchLevel]
    · simp only [Chip.signal_cl2_eq, latchLevel]
    · simp only [Chip.signal_cl4_eq, latchLevel]
    · exact congrArg _ (State.updChip_congr ((s.chip p).signal_cl3_quiet e hquiet))
    · rintro rfl hshift
      exact congrArg _ (State.updChip_congr ((s.chip p).signal_cl3_shift hshift))

/-! The bit-serial path (43_peripheral_chip.md R242, 30_encoding.md R110). -/

/-- What one bit cell does to its chip: the bit on line 4, then line 3 low and high. -/
def Chip.bitCell (c : Chip) (b : Bool) : Chip :=
  ((c.signal .cl4 (if b then .rise else .fall)).signal .cl3 .fall).signal .cl3 .rise

/-- What a sequence of bit cells does to its chip. -/
def Chip.bitCells (bs : List Bool) (c : Chip) : Chip := bs.foldl Chip.bitCell c

/-- The bits of a byte in the order SERBYTE sends them. -/
def serialBits (v : Byte) : List Bool := [7, 6, 5, 4, 3, 2, 1, 0].map v.getLsbD

theorem serialBits_length (v : Byte) : (serialBits v).length = 8 := rfl

/-- The levels a bit cell leaves: its bit on line 4, line 3 high. -/
def cellLevels (cl : BitVec 4) (b : Bool) : BitVec 4 := BitVec.ofBool b ++ (1 : BitVec 1) ++ cl.extractLsb' 0 2

/-- The shift register after one bit more. -/
def shiftBit (sr : Byte) (b : Bool) : Byte := sr.extractLsb' 0 7 ++ BitVec.ofBool b

theorem cellLevels_eq_latchLevel (cl : BitVec 4) (b : Bool) :
    latchLevel (latchLevel (latchLevel cl (if b then Edge.rise else Edge.fall).bit .cl4) 0 .cl3) 1 .cl3 = cellLevels cl b := by
  revert cl b
  decide

theorem latchLevel_cl4_high (cl : BitVec 4) (b : Bool) :
    (latchLevel cl (if b then Edge.rise else Edge.fall).bit .cl4).extractLsb' 3 1 = BitVec.ofBool b := by
  revert cl b
  decide

theorem cellLevels_cellLevels (cl : BitVec 4) (a b : Bool) : cellLevels (cellLevels cl a) b = cellLevels cl b := by
  revert cl a b
  decide

/-- Of a sequence of bit cells only the last is seen in the levels. -/
theorem foldl_cellLevels (cl : BitVec 4) (bs : List Bool) (b : Bool) :
    (bs ++ [b]).foldl cellLevels cl = cellLevels cl b := by
  induction bs generalizing cl with
  | nil => rfl
  | cons a bs ih => rw [List.cons_append, List.foldl_cons, ih, cellLevels_cellLevels]

theorem shiftBit_getLsbD (sr : Byte) (b : Bool) (k : Nat) :
    (shiftBit sr b).getLsbD k = if k = 0 then b else decide (k < 8) && sr.getLsbD (k - 1) := by
  cases k with
  | zero => exact (BitVec.getLsbD_append ..).trans (by simp)
  | succ k =>
    rw [shiftBit, BitVec.getLsbD_append, if_neg (by omega), if_neg (by omega), BitVec.getLsbD_extractLsb', Nat.zero_add]
    exact congrArg (· && _) (decide_eq_decide.mpr (by omega))

/-- After eight bits the shift register holds the byte, whatever it held. -/
theorem foldl_shiftBit (sr v : Byte) : (serialBits v).foldl shiftBit sr = v := by
  apply BitVec.eq_of_getLsbD_eq
  intro k hk
  simp only [serialBits, List.map_cons, List.map_nil, List.foldl_cons, List.foldl_nil, shiftBit_getLsbD]
  interval_cases k <;> rfl

section Cells

variable {c : Chip}

/-- Before its rising edge a bit cell has only latched levels. -/
theorem Chip.bitCell_eq_rise (b : Bool) : c.bitCell b =
    Chip.signal { c with cl := latchLevel (latchLevel c.cl (if b then Edge.rise else Edge.fall).bit .cl4) 0 .cl3 } .cl3 .rise := by
  rw [Chip.bitCell, Chip.signal_cl4_eq, Chip.signal_cl3_quiet _ _ (.inl rfl)]
  rfl

/-- With SREN clear a bit cell only latches levels. -/
theorem Chip.bitCell_disabled (h : c.cr.getLsbD 2 = false) (b : Bool) :
    c.bitCell b = { c with cl := cellLevels c.cl b } := by
  rw [Chip.bitCell_eq_rise, ← cellLevels_eq_latchLevel]
  exact Chip.signal_cl3_quiet _ _ (.inr h)

/-- With SREN set a bit cell also shifts its bit in. -/
theorem Chip.bitCell_enabled (h : c.cr.getLsbD 2 = true) (b : Bool) : c.bitCell b = { c with
    cl := cellLevels c.cl b
    sr := shiftBit c.sr b
    srcnt := c.srcnt + 1
    ifr := if c.srcnt = 7 then c.ifr ||| 0b10000 else c.ifr } := by
  rw [Chip.bitCell_eq_rise, ← cellLevels_eq_latchLevel, Chip.signal_cl3_shift _ (by exact h)]
  simp only [latchLevel_cl3_high, latchLevel_cl4_high]
  rfl

theorem Chip.bitCells_disabled (h : c.cr.getLsbD 2 = false) (bs : List Bool) :
    c.bitCells bs = { c with cl := bs.foldl cellLevels c.cl } := by
  induction bs generalizing c with
  | nil => rfl
  | cons b bs ih =>
    rw [Chip.bitCells, List.foldl_cons, Chip.bitCell_disabled h]
    exact ih h

/-- The bit counter passes 7 within `n + 1` bits when it does on the first one, or within `n` after it. -/
theorem srFlag_succ (srcnt : BitVec 3) (ifr : BitVec 5) (n : Nat) :
    (if 8 ≤ (srcnt + 1).toNat + n then (if srcnt = 7 then ifr ||| 0b10000 else ifr) ||| 0b10000
      else if srcnt = 7 then ifr ||| 0b10000 else ifr) =
      if 8 ≤ srcnt.toNat + (n + 1) then ifr ||| 0b10000 else ifr := by
  by_cases hlast : srcnt = 7
  · have hpassed : 8 ≤ srcnt.toNat + (n + 1) := by
      have hseven : srcnt.toNat = 7 := congrArg BitVec.toNat hlast
      omega
    rw [if_pos hlast, if_pos hpassed, BitVec.or_assoc, BitVec.or_self, ite_self]
  · have hnext : (srcnt + 1).toNat = srcnt.toNat + 1 := by bv_omega
    rw [if_neg hlast, hnext, Nat.add_right_comm, ← Nat.add_assoc]

/-- With SREN set the bits are shifted in and counted modulo 8, and the SR flag is set when the count passes 7. -/
theorem Chip.bitCells_enabled (h : c.cr.getLsbD 2 = true) (bs : List Bool) : c.bitCells bs = { c with
    cl := bs.foldl cellLevels c.cl
    sr := bs.foldl shiftBit c.sr
    srcnt := c.srcnt + BitVec.ofNat 3 bs.length
    ifr := if 8 ≤ c.srcnt.toNat + bs.length then c.ifr ||| 0b10000 else c.ifr } := by
  induction bs generalizing c with
  | nil =>
    have hcount : ¬ 8 ≤ c.srcnt.toNat + ([] : List Bool).length := Nat.not_le.mpr c.srcnt.isLt
    rw [if_neg hcount]
    simp [Chip.bitCells]
  | cons b bs ih =>
    have hcount : c.srcnt + BitVec.ofNat 3 (b :: bs).length = c.srcnt + 1 + BitVec.ofNat 3 bs.length := by
      rw [List.length_cons, Nat.add_comm, BitVec.ofNat_add, ← BitVec.add_assoc]
      rfl
    rw [Chip.bitCells, List.foldl_cons, Chip.bitCell_enabled h, hcount, List.length_cons, ← srFlag_succ]
    exact ih h

/-- Eight bit cells are the fast transfer, from any state of the chip (43_peripheral_chip.md R242). -/
theorem Chip.bitCells_serialBits (c : Chip) (v : Byte) : c.bitCells (serialBits v) = c.fast v := by
  have hlevels : (serialBits v).foldl cellLevels c.cl = cellLevels c.cl (v.getLsbD 0) :=
    foldl_cellLevels c.cl ([7, 6, 5, 4, 3, 2, 1].map v.getLsbD) (v.getLsbD 0)
  have hfast : ∀ (cl : BitVec 4) (b : Bool),
      cellLevels cl b = if b then cl ||| 0b1100 else (cl ||| 0b0100) &&& 0b0111 := by decide
  rw [Chip.fast_eq]
  cases h : c.cr.getLsbD 2 with
  | false => rw [Chip.bitCells_disabled h, hlevels, hfast]; rfl
  | true =>
    have hround : BitVec.ofNat 3 8 = 0#3 := rfl
    have hpassed : 8 ≤ c.srcnt.toNat + 8 := Nat.le_add_left ..
    rw [Chip.bitCells_enabled h, hlevels, hfast, foldl_shiftBit, serialBits_length, hround, BitVec.add_zero, if_pos hpassed]
    rfl

end Cells

theorem performAll_append {is js : List Instr} {s t : State} (h : performAll is s = .next t) :
    performAll (is ++ js) s = performAll js t := by
  induction is generalizing s with
  | nil => cases h; rfl
  | cons i is ih =>
    rw [List.cons_append, performAll]
    rw [performAll] at h
    cases hi : exec i s with
    | next u =>
      rw [hi] at h
      exact ih h
    | fault r | refused r =>
      rw [hi] at h
      cases h

section Serial

variable {s : State} {p : Slot}

theorem performAll_signal (hlive : s.err.getLsbD 0 = false) (hp : s.params.isPart p = true) (line : ControlLine) (e : Edge)
    (is : List Instr) :
    performAll (.signal p line e :: is) s = performAll is (s.updChip p (fun c => c.signal line e)) := by
  rw [performAll, exec_signal_live hlive hp]

/-- The three commands of SERBIT are a bit cell of their chip, and nothing else. -/
theorem performAll_serBit (hlive : s.err.getLsbD 0 = false) (hp : s.params.isPart p = true) (b : Bool) :
    performAll (serBit p b) s = .next (s.updChip p (fun c => c.bitCell b)) := by
  rw [serBit, performAll_signal hlive hp, performAll_signal (s := s.updChip p _) hlive hp,
    performAll_signal (s := (s.updChip p _).updChip p _) hlive hp, State.updChip_updChip, State.updChip_updChip]
  rfl

theorem performAll_serBits (hlive : s.err.getLsbD 0 = false) (hp : s.params.isPart p = true) (bs : List Bool) :
    performAll (bs.flatMap (serBit p)) s = .next (s.updChip p (fun c => c.bitCells bs)) := by
  induction bs generalizing s with
  | nil => exact congrArg _ (s.updChip_id p).symm
  | cons b bs ih =>
    rw [List.flatMap_cons, performAll_append (performAll_serBit hlive hp b), ih (s := s.updChip p _) hlive hp,
      State.updChip_updChip]
    rfl

/-- SERBYTE is the fast transfer into its chip. -/
theorem performAll_serByte (hlive : s.err.getLsbD 0 = false) (hp : s.params.isPart p = true) (v : Byte) :
    performAll (serByte p v) s = .next (s.updChip p (fun c => c.fast v)) := by
  refine (performAll_serBits hlive hp (serialBits v)).trans ?_
  simp only [Chip.bitCells_serialBits]

end Serial

/-- FAST between two ends that have negotiated is the fast transfer into its target (42_bus_arbiter.md R181). -/
theorem exec_fast_ready {s : State} {d : Slot} {dir : Direction} {v : Byte} (hlive : s.err.getLsbD 0 = false)
    (hd : s.params.isDrive d = true) (hready : s.fastReady d = true) :
    exec (.fast d dir v) s = .next (s.updChip (fastTarget d dir) (fun c => c.fast v)) := by
  refine (exec_drive_live rfl hlive hd).trans ?_
  rw [if_pos hready]

/-- Settles O41: both are the transfer of the byte into the target's chip. -/
theorem fastEqualsTheBitSerialPath : Obligations.FastEqualsTheBitSerialPath := by
  refine ⟨fun s p v hlive hp => performAll_serByte hlive hp v,
    fun s t d target dir v hlive hd hdrive hhost hneg0 hnegd hen hfast => ?_⟩
  have hp : s.params.isPart target = true := by
    cases dir with
    | hostToDrive => exact hdrive rfl ▸ Params.isPart_of_isDrive hd
    | driveToHost => rw [hhost rfl]; simp [Params.isPart]
  rw [exec_fast_ready hlive hd ((s.fastReady_iff d).mpr ⟨hneg0, hnegd, hen⟩), fastTarget_eq hdrive hhost] at hfast
  rw [performAll_serByte hlive hp, hfast]

end Sys2Proof.Machine

/-! Resets, recovery and status (spec/44_system_ops.md R260 to R264): what MRESET restores and whom it tells, the two resets of a
drive, DBGATT, and the conditions CLRERR clears. -/

namespace Sys2Proof.Machine

/-! MRESET (44_system_ops.md R260). -/

/-- Telling each of a list of distinct slots adds to the past of each once, and changes nothing else. -/
theorem foldl_tell_spec (e : CpuEvent) {l : List Slot} (hl : l.Nodup) (st : State) :
    let t := l.foldl (fun s q => s.tell q e) st
    t = { st with agents := t.agents } ∧
      ∀ q, t.agent q = if q ∈ l then { st.agent q with history := e :: (st.agent q).history } else st.agent q := by
  induction l generalizing st with
  | nil => simp
  | cons a l ih =>
    obtain ⟨ha, hl'⟩ := List.nodup_cons.mp hl
    obtain ⟨hframe, hagent⟩ := ih hl' (st.tell a e)
    refine ⟨by rw [List.foldl_cons, hframe]; rfl, fun q => ?_⟩
    rw [List.foldl_cons, hagent q, State.tell, State.updAgent_agent]
    by_cases hq : q = a <;> simp [hq, ha]

/-- Every register of the spec at its power-on value, before anybody is told (10_state.md R44). -/
def State.registersReset (st : State) : State :=
  { st with
    fDrive := 0
    drives := .fill .reset
    parts := .fill .reset
    authClk := 0
    bus := 0xFF
    atn := true
    err := 0
    errSlot := 0
    res := 0 }

/-- A machine reset is the registers' reset and the notifications, each drive's agent being told once. -/
theorem State.machineReset_spec (st : State) :
    st.machineReset = { st.registersReset with agents := st.machineReset.agents } ∧
      ∀ q, st.machineReset.agent q = if st.params.isDrive q = true then
        { st.agent q with history := .wasReset .machine :: (st.agent q).history } else st.agent q := by
  obtain ⟨hframe, hagent⟩ := foldl_tell_spec (.wasReset .machine) st.params.driveSlots_nodup st.registersReset
  simp only [Params.mem_driveSlots] at hagent
  exact ⟨hframe, hagent⟩

/-- The registers are those of power-on, whatever the agents have been told (10_state.md R44). -/
theorem State.registersReset_powerOn (st : State) (agents : Bank Agent) :
    PowerOn { st.registersReset with agents := agents } :=
  ⟨⟨rfl, rfl, rfl, rfl, rfl, rfl, rfl⟩, Bank.read_fill _, Bank.read_fill _⟩

/-- Settles O52: the command is the machine reset, which writes no field of the model's own but the agents. -/
theorem mresetTellsEveryAgent : Obligations.MresetTellsEveryAgent := by
  intro s
  obtain ⟨hframe, hagent⟩ := s.machineReset_spec
  refine ⟨s.machineReset, rfl, ?_, ?_, ?_, ?_, hagent⟩
  · rw [hframe]
    exact s.registersReset_powerOn _
  all_goals
    rw [hframe]
    rfl

/-! The recovery commands of a drive (44_system_ops.md R261 to R263). -/

/-- A drive reset writes the slot's converter registers, its participant registers and its agent's past once each, and then
resolves the bus (44_system_ops.md R261, R262). -/
theorem driveReset_eq (kind : ResetKind) (d : Slot) (now : Clock) (st : State) :
    driveReset kind d now st =
      (((st.updDrive d (fun r => { r with
          jam := false, jamAddr := 0, stopClk := r.localClk, frac := 0, lastSync := now })).updPart d
        (fun x => { x with out := 0xFF, rmwVal := 0, chip := .reset })).updAgent d
          (fun a => { a with history := .wasReset kind :: a.history })).resolve := by
  rw [driveReset, State.chipReset, State.updPart_updPart]
  rfl

/-- Settles O53: both resets are the drive reset of their kind, which ends in a resolution; DBGATT looks at the jam first. -/
theorem recoveryCommandsReleaseTheSlot : Obligations.RecoveryCommandsReleaseTheSlot := by
  intro s d now hlive hd reset
  refine ⟨⟨(reset .soft).resolve, ?_, State.resolve_resolved _⟩, ⟨(reset .hard).resolve, ?_, State.resolve_resolved _⟩,
    fun hjam => ?_, fun hjam => ?_⟩
  · exact (exec_drive_live (f := fun st => driveReset .soft d (st.clock now) st) rfl hlive hd).trans
      (congrArg _ (driveReset_eq ..))
  · exact (exec_drive_live (f := fun st => driveReset .hard d (st.clock now) st) rfl hlive hd).trans
      (congrArg _ (driveReset_eq ..))
  · refine (exec_drive_live rfl hlive hd).trans ?_
    rw [if_neg (by simp [hjam])]
  · refine (exec_drive_live rfl hlive hd).trans ?_
    rw [if_pos hjam]
    rfl

/-! CLRERR (44_system_ops.md R264). -/

theorem decode_clrerr (a : Clock) (n : BitVec 32) (bs : List Byte) : decode ⟨0x05000000, a, n, bs⟩ = .ok .clrerr :=
  decode_command (f := .base 0x05 0) (opa := a) (opb := n) (sdat := bs) (.clrerr rfl) rfl

/-- Of the bits of `err` CLRERR keeps the fatal one, which is clear whenever CLRERR is not ignored. -/
theorem err_and_one_of_live {e : BitVec 10} (h : e.getLsbD 0 = false) : e &&& 1 = 0 := by
  apply BitVec.eq_of_getLsbD_eq
  intro i hi
  cases i with
  | zero =>
    rw [BitVec.getLsbD_and, h]
    rfl
  | succ i => simp

/-- Settles O54: outside the fatal state no bit is left, and in it the command is ignored. -/
theorem clrerrClearsTheStickyBits : Obligations.ClrerrClearsTheStickyBits := by
  refine ⟨decode_clrerr, fun s hlive => ?_, fun s hfatal => ?_⟩
  · refine (exec_command_live rfl hlive).trans ?_
    rw [err_and_one_of_live hlive]
  · rw [exec, execClrerr, command_fatal hfatal]

end Sys2Proof.Machine

/-! Snapshots (spec/44_system_ops.md R266 to R268, spec/20_memory.md R76, R80, R81): a block is its fields side by side, so the
offsets a reader cuts at give back what a writer laid out; a save, a load and the two in turn are put together from that. -/

namespace Sys2Proof

/-! Byte strings (20_memory.md R76). -/

@[simp] theorem leBytes_length (n x : Nat) : (leBytes n x).length = n := by
  induction n generalizing x with
  | zero => rfl
  | succ n ih => rw [leBytes, List.length_cons, ih]

/-- The bytes of a number spell it, cut to their count. -/
theorem leNat_leBytes (n x : Nat) : leNat (leBytes n x) = x % 256 ^ n := by
  induction n generalizing x with
  | zero => rw [Nat.pow_zero, Nat.mod_one]; rfl
  | succ n ih =>
    have hbyte : (BitVec.ofNat 8 x).toNat = x % 256 := BitVec.toNat_ofNat ..
    rw [leBytes, leNat, hbyte, ih, Nat.pow_succ', Nat.mod_mul]

theorem leNat_leBytes_of_lt {n x : Nat} (h : x < 256 ^ n) : leNat (leBytes n x) = x := by
  rw [leNat_leBytes, Nat.mod_eq_of_lt h]

/-- A 16-bit field is its low byte and its high byte. -/
theorem leBytes_word (x : BitVec 16) : leBytes 2 x.toNat = [x.extractLsb' 0 8, x.extractLsb' 8 8] := by
  have hhigh : BitVec.ofNat 8 (x.toNat / 256) = x.extractLsb' 8 8 := by
    rw [BitVec.extractLsb', Nat.shiftRight_eq_div_pow]
  simp only [leBytes, hhigh]
  rfl

theorem ofNat_leNat_word (x : BitVec 16) : BitVec.ofNat 16 (leNat [x.extractLsb' 0 8, x.extractLsb' 8 8]) = x := by
  rw [← leBytes_word, leNat_leBytes_of_lt x.isLt, BitVec.ofNat_toNat, BitVec.setWidth_eq]

section Fields

variable {xs ys : List Byte} {n : Nat}

/-- Reading past a field of the right length. -/
theorem bytesAt_skip (h : xs.length = n) (off len : Nat) : bytesAt (n + off) len (xs ++ ys) = bytesAt off len ys := by
  rw [bytesAt, bytesAt, ← h, List.drop_length_add_append]

theorem byteAt_skip (h : xs.length = n) (off : Nat) : byteAt (n + off) (xs ++ ys) = byteAt off ys := by
  rw [byteAt, byteAt, ← h, List.getD_append_right _ _ _ _ (Nat.le_add_right ..), Nat.add_sub_cancel_left]

theorem bytesAt_after (h : xs.length = n) (len : Nat) : bytesAt n len (xs ++ ys) = bytesAt 0 len ys := bytesAt_skip h 0 len

theorem byteAt_after (h : xs.length = n) : byteAt n (xs ++ ys) = byteAt 0 ys := byteAt_skip h 0

/-- Reading the field in front. -/
theorem bytesAt_front (h : xs.length = n) : bytesAt 0 n (xs ++ ys) = xs := by
  rw [bytesAt, List.drop_zero, ← h, List.take_left]

theorem bytesAt_whole (h : xs.length = n) : bytesAt 0 n xs = xs := by
  rw [bytesAt, List.drop_zero, ← h, List.take_length]

end Fields

/-- A value stored in the low bits of a byte is read back, and the bits above it are 0. -/
theorem extract_low_setWidth {k : Nat} (x : BitVec k) (hk : k ≤ 8) : (x.setWidth 8).extractLsb' 0 k = x := by
  apply BitVec.eq_of_getLsbD_eq
  intro i hi
  have hi8 : i < 8 := by omega
  simp [hi, hi8]

theorem extract_high_setWidth {k : Nat} (x : BitVec k) (m : Nat) : (x.setWidth 8).extractLsb' k m = 0 := by
  apply BitVec.eq_of_getLsbD_eq
  intro i _
  simp

end Sys2Proof

namespace Sys2Proof.Machine

/-! The two kinds of block (20_memory.md R80, R81). -/

/-- The 24 bytes of a chip, its read latch and its port A input (20_memory.md R81). -/
def chipImage (major minor : Byte) (c : Chip) (rmwVal paIn : Byte) : List Byte :=
  [0x43, major, minor, c.ora, c.orb, c.ddra, c.ddrb, c.ifr.setWidth 8, c.ier.setWidth 8,
    c.t1.latch.extractLsb' 0 8, c.t1.latch.extractLsb' 8 8, c.t1.count.extractLsb' 0 8, c.t1.count.extractLsb' 8 8,
    c.t2.latch.extractLsb' 0 8, c.t2.latch.extractLsb' 8 8, c.t2.count.extractLsb' 0 8, c.t2.count.extractLsb' 8 8,
    c.sr, c.srcnt.setWidth 8, c.cr.setWidth 8,
    (BitVec.ofBool c.t2.run ++ BitVec.ofBool c.t1.run).setWidth 8, c.cl.setWidth 8, rmwVal, paIn]

theorem chipBytes_eq (x : Part) : chipBytes x = chipImage 1 0 x.chip x.rmwVal x.paIn := by
  simp only [chipBytes, leBytes_word]
  rfl

/-- The block of the host: its clock, and the drive-only fields at 0 (20_memory.md R80). -/
def hostBlock (major minor : Byte) (clk : Clock) (f : CpuFields) : PctxBlock :=
  { verMajor := major, verMinor := minor, localClk := clk.toNat, frac := 0, stopClk := 0, lastSync := 0, pflags := 0
    jamAddr := 0, fields := f }

/-- The block of a drive slot with these registers (20_memory.md R80). -/
def driveBlock (major minor : Byte) (r : Drive) (f : CpuFields) : PctxBlock :=
  { verMajor := major, verMinor := minor, localClk := r.localClk.toNat, frac := r.frac.toNat, stopClk := r.stopClk.toNat
    lastSync := r.lastSync.toNat, pflags := if r.jam then 1 else 0, jamAddr := r.jamAddr.toNat, fields := f }

theorem State.pctxBlock_host (st : State) : st.pctxBlock 0 = hostBlock 1 0 st.authClk (st.cpuSave 0) := rfl

theorem State.pctxBlock_drive (st : State) {q : Slot} (h : q ≠ 0) :
    st.pctxBlock q = driveBlock 1 0 (st.drive q) (st.cpuSave q) := if_neg h

theorem hostBlock_bytes (cb : Nat) (major minor : Byte) (clk : Clock) (f : CpuFields) :
    (hostBlock major minor clk f).bytes cb = [0x50, major, minor] ++ leBytes cb clk.toNat ++ f.cpuRegs ++ f.lastOpcode
      ++ [0, 0] ++ leBytes cb 0 ++ leBytes cb 0 ++ [0, 0, 0] ++ f.intStatus ++ f.ram := by
  simp only [PctxBlock.bytes, hostBlock, List.append_assoc]
  rfl

theorem driveBlock_bytes (cb : Nat) (major minor : Byte) (r : Drive) (f : CpuFields) :
    (driveBlock major minor r f).bytes cb = [0x50, major, minor] ++ leBytes cb r.localClk.toNat ++ f.cpuRegs ++ f.lastOpcode
      ++ leBytes 2 r.frac.toNat ++ leBytes cb r.stopClk.toNat ++ leBytes cb r.lastSync.toNat ++ [if r.jam then 1 else 0]
      ++ leBytes 2 r.jamAddr.toNat ++ f.intStatus ++ f.ram := rfl

/-- Opaque fields of the lengths the parameters fix for slot `q` (00_scope.md R6, 20_memory.md R80). -/
structure FieldsFit (P : Params) (q : Slot) (f : CpuFields) : Prop where
  cpuRegs : f.cpuRegs.length = P.cpuRegsLen
  lastOpcode : f.lastOpcode.length = P.lastopLen
  intStatus : f.intStatus.length = P.intstatLen
  ram : f.ram.length = P.ramSize.read q

theorem fitLength_length (n : Nat) (bs : List Byte) : (fitLength n bs).length = n := by
  rw [fitLength, List.length_take, List.length_append, List.length_replicate]
  omega

theorem State.cpuSave_fits (st : State) (q : Slot) : FieldsFit st.params q (st.cpuSave q) :=
  ⟨fitLength_length .., fitLength_length .., fitLength_length .., fitLength_length ..⟩

/-! SNAPSAVE (44_system_ops.md R266). -/

section Snapsave

variable {s t : State} {q : Slot} {kind : BlockKind} {now : Clock}

/-- SNAPSAVE is a SYNCALL, then the block of the slot as it is after it. -/
theorem exec_snapsave_live (hlive : s.err.getLsbD 0 = false) (hq : s.params.isPart q = true) :
    let u := catchAll catchUp (s.clock now) s
    exec (.snapsave q kind now) s = .next { u with sdat := u.blockBytes q kind, res := 0 } := by
  refine (exec_part_live (f := fun st =>
    let s1 := catchAll catchUp (st.clock now) st
    { s1 with sdat := s1.blockBytes q kind }.setRes 0) rfl hlive hq).trans ?_
  exact congrArg Host.Outcome.next (State.setRes_byte _ 0)

/-- What SNAPSAVE leaves in SDAT is the block of the slot after the command. -/
theorem snapsave_sdat (hlive : s.err.getLsbD 0 = false) (hq : s.params.isPart q = true)
    (h : exec (.snapsave q kind now) s = .next t) : t.sdat = t.blockBytes q kind := by
  rw [exec_snapsave_live hlive hq] at h
  obtain rfl := Host.Outcome.next.inj h
  cases kind with
  | pctx | chip => rfl

end Snapsave

/-- Settles O56: the state saved is the one SYNCALL leaves, and each block is written out field by field. -/
theorem snapsaveLaysOutTheBlocks : Obligations.SnapsaveLaysOutTheBlocks := by
  intro s q now hlive hq
  obtain ⟨u, hsyncall, hframe, hcaughtUp, hran, hidle⟩ := syncallBringsEveryDriveToTheTarget s now hlive
  have hsave (kind : BlockKind) :
      exec (.snapsave q kind now) s = .next { u with sdat := u.blockBytes q kind, res := 0 } := by
    obtain rfl : _ = u := Host.Outcome.next.inj ((exec_syncall_live hlive).symm.trans hsyncall)
    exact exec_snapsave_live hlive hq
  obtain ⟨hregs, hlast, hints, hram⟩ := hframe.kept.params ▸ u.cpuSave_fits q
  refine ⟨u, hframe, hcaughtUp, hran, hidle, ?_, _, _, _, _, hregs, hlast, hints, hram, ?_⟩
  · rw [hsave, State.blockBytes, chipBytes_eq]
    rfl
  · rw [hsave, State.blockBytes, hframe.kept.params]
    by_cases h0 : q = 0
    · subst h0
      rw [State.pctxBlock_host, hostBlock_bytes]
      rfl
    · rw [State.pctxBlock_drive u h0, driveBlock_bytes]
      simp only [if_neg h0]

/-! SNAPLOAD of a chip (44_system_ops.md R267). -/

/-- The versions a reader understands, 0.x and 1.0 (20_memory.md R82). -/
theorem versionTooNew_eq_false {major minor : Byte} (h : major = 0 ∨ (major = 1 ∧ minor = 0)) :
    versionTooNew major minor = false := by
  rcases h with rfl | ⟨rfl, rfl⟩ <;> rfl

section ChipImage

variable (major minor : Byte) (c : Chip) (rmwVal paIn : Byte)

/-- Reading the bytes of a chip gives the chip back bit for bit. -/
theorem loadChipBytes_chipImage (x : Part) :
    loadChipBytes (chipImage major minor c rmwVal paIn) x = { x with chip := c, rmwVal := rmwVal, paIn := paIn } := by
  have hrun1 : ∀ b2 b1 : Bool, (BitVec.ofBool b2 ++ BitVec.ofBool b1)[0] = b1 := by decide
  have hrun2 : ∀ b2 b1 : Bool, (BitVec.ofBool b2 ++ BitVec.ofBool b1)[1] = b2 := by decide
  simp [loadChipBytes, chipImage, byteAt, bytesAt, extract_low_setWidth, ofNat_leNat_word, hrun1, hrun2]

theorem chipZerosOk_chipImage : chipZerosOk (chipImage major minor c rmwVal paIn) = true := by
  simp [chipZerosOk, chipImage, byteAt, extract_high_setWidth]

variable {major minor}

theorem judgeChip_chipImage (h : major = 0 ∨ (major = 1 ∧ minor = 0)) :
    judgeChip (chipImage major minor c rmwVal paIn) = .good := by
  have hnew : ¬ versionTooNew major minor = true := by rw [versionTooNew_eq_false h]; decide
  exact (if_pos ⟨rfl, rfl, chipZerosOk_chipImage ..⟩).trans (if_neg hnew)

end ChipImage

/-- SNAPLOAD of the bytes of a chip: the slot's registers are written once and the bus recomputed without edges. -/
theorem exec_snapload_chip {s : State} {q : Slot} {major minor : Byte} (c : Chip) (rmwVal paIn : Byte)
    (hlive : s.err.getLsbD 0 = false) (hq : s.params.isPart q = true) (hver : major = 0 ∨ (major = 1 ∧ minor = 0)) :
    exec (.snapload q .chip (chipImage major minor c rmwVal paIn)) s =
      .next { (s.updPart q (fun x => { x with
        chip := c, rmwVal := rmwVal, paIn := paIn, out := c.effOut })).resolveSilently with res := 0 } := by
  rw [exec_snapload_live hlive hq, blockVerdict, judgeChip_chipImage c rmwVal paIn hver]
  simp only [loadByVerdict, loadChip, State.updPart_updPart, loadChipBytes_chipImage]
  exact congrArg Host.Outcome.next (State.setRes_byte _ 0)

/-- Settles O58: the load writes the slot, and a silent resolution writes the bus and the attention level only. -/
theorem snaploadAppliesAChipBlock : Obligations.SnaploadAppliesAChipBlock := by
  intro s q c major minor rmwVal paIn hlive hq hver
  exact ⟨_, exec_snapload_chip c rmwVal paIn hlive hq hver, State.resolveSilently_coherent _, rfl⟩

/-- Settles O60: what was saved are the bytes of the slot's chip, in version 1.0. -/
theorem chipStateRoundTrips : Obligations.ChipStateRoundTrips := by
  intro s t u q now hlive hq hsave hparams hlive'
  rw [snapsave_sdat hlive hq hsave, State.blockBytes, chipBytes_eq]
  exact snaploadAppliesAChipBlock u q (t.chip q) 1 0 _ _ hlive' (hparams ▸ hq) (.inr ⟨rfl, rfl⟩)


/-! SNAPLOAD of a ProcessorContext (44_system_ops.md R267). -/

/-- A block whose fields have the widths and lengths of its slot, with the must-be-zero bits 0 (20_memory.md R80). -/
structure PctxBlock.Fits (P : Params) (q : Slot) (b : PctxBlock) : Prop where
  fields : FieldsFit P q b.fields
  localClk : b.localClk < 256 ^ P.clkW.bytes
  stopClk : b.stopClk < 256 ^ P.clkW.bytes
  lastSync : b.lastSync < 256 ^ P.clkW.bytes
  frac : b.frac < 256 ^ 2
  jamAddr : b.jamAddr < 256 ^ 2
  zeros : b.zerosOk q = true

section Block

variable {P : Params} {q : Slot} {b : PctxBlock}

/-- The length of a block is the sum of those of its fields. -/
theorem PctxBlock.bytes_length (h : FieldsFit P q b.fields) : (b.bytes P.clkW.bytes).length = pctxLength P q := by
  obtain ⟨hregs, hlast, hints, hram⟩ := h
  simp only [PctxBlock.bytes, pctxLength, List.length_append, leBytes_length, List.length_cons, List.length_nil, hregs, hlast,
    hints, hram]
  omega

/-- Cutting the bytes of a block at the offsets of 20_memory.md R80 gives the block back: each offset is the sum of the lengths of
the fields before it. -/
theorem PctxBlock.ofBytes_bytes (h : b.Fits P q) : PctxBlock.ofBytes P q (b.bytes P.clkW.bytes) = b := by
  obtain ⟨⟨hregs, hlast, hints, hram⟩, hlocal, hstop, hsync, hfrac, hjam, _⟩ := h
  have htag : [(0x50 : Byte), b.verMajor, b.verMinor].length = 3 := rfl
  have hflags : [b.pflags].length = 1 := rfl
  generalize hcb : P.clkW.bytes = cb at *
  simp only [PctxBlock.ofBytes, PctxBlock.bytes, hcb, List.append_assoc, Nat.add_assoc, bytesAt_skip, bytesAt_after, byteAt_skip,
    byteAt_after, bytesAt_front, bytesAt_whole, leNat_leBytes_of_lt, htag, hflags, leBytes_length, hregs, hlast, hints, hram,
    hlocal, hstop, hsync, hfrac, hjam, -Nat.reduceAdd]
  rfl

theorem judgePctx_bytes (h : b.Fits P q) (hver : b.verMajor = 0 ∨ (b.verMajor = 1 ∧ b.verMinor = 0)) :
    judgePctx P q (b.bytes P.clkW.bytes) = .good := by
  have hzeros : (PctxBlock.ofBytes P q (b.bytes P.clkW.bytes)).zerosOk q = true := by
    rw [PctxBlock.ofBytes_bytes h]
    exact h.zeros
  have hnew : ¬ versionTooNew b.verMajor b.verMinor = true := by
    rw [versionTooNew_eq_false hver]
    decide
  exact (if_pos ⟨PctxBlock.bytes_length h.fields, rfl, hzeros⟩).trans (if_neg hnew)

end Block

/-- Drive registers with those that a block carries taken from `r` (20_memory.md R80). -/
def Drive.restored (r d : Drive) : Drive :=
  { d with
    localClk := r.localClk
    frac := r.frac
    stopClk := r.stopClk
    lastSync := r.lastSync
    jam := r.jam
    jamAddr := r.jamAddr }

section Load

variable {s : State} {q : Slot} {major minor : Byte} {f : CpuFields}

theorem toNat_lt_of_clockFits {P : Params} {c : Clock} (h : P.clockFits c = true) : c.toNat < 256 ^ P.clkW.bytes := by
  have hbits : 256 ^ P.clkW.bytes = 2 ^ P.clkW.bits := by cases P.clkW <;> rfl
  rw [hbits]
  exact of_decide_eq_true h

theorem hostBlock_fits {P : Params} {clk : Clock} (hf : FieldsFit P 0 f) (hclk : P.clockFits clk = true) :
    (hostBlock major minor clk f).Fits P 0 where
  fields := hf
  localClk := toNat_lt_of_clockFits hclk
  stopClk := Nat.pow_pos (by decide)
  lastSync := Nat.pow_pos (by decide)
  frac := Nat.pow_pos (by decide)
  jamAddr := Nat.pow_pos (by decide)
  zeros := by simp [PctxBlock.zerosOk, hostBlock]

theorem driveBlock_fits {P : Params} {r : Drive} (hq : q ≠ 0) (hf : FieldsFit P q f) (hr : r.ClocksFit P) :
    (driveBlock major minor r f).Fits P q := by
  obtain ⟨hlocal, hstop, hsync⟩ := hr
  have hflags : ∀ jam : Bool, (if jam then 1 else 0 : Byte).extractLsb' 1 7 = 0 := by decide
  refine ⟨hf, toNat_lt_of_clockFits hlocal, toNat_lt_of_clockFits hstop, toNat_lt_of_clockFits hsync, r.frac.isLt,
    r.jamAddr.isLt, ?_⟩
  rw [PctxBlock.zerosOk, Bool.and_eq_true, Bool.or_eq_true, decide_eq_true_eq]
  exact ⟨hflags r.jam, .inl (bne_iff_ne.mpr hq)⟩

/-- SNAPLOAD of the bytes of a block that fits applies that block. -/
theorem exec_snapload_pctx {b : PctxBlock} (hlive : s.err.getLsbD 0 = false) (hq : s.params.isPart q = true)
    (h : b.Fits s.params q) (hver : b.verMajor = 0 ∨ (b.verMajor = 1 ∧ b.verMinor = 0)) :
    exec (.snapload q .pctx (b.bytes s.params.clkW.bytes)) s =
      .next { loadPctx q (b.bytes s.params.clkW.bytes) s with res := 0 } := by
  rw [exec_snapload_live hlive hq, blockVerdict, judgePctx_bytes h hver]
  exact congrArg Host.Outcome.next (State.setRes_byte _ 0)

/-- The host's block loaded writes its clock and tells its agent. -/
theorem exec_snapload_host {clk : Clock} (hlive : s.err.getLsbD 0 = false) (hq : s.params.isPart 0 = true)
    (hver : major = 0 ∨ (major = 1 ∧ minor = 0)) (hf : FieldsFit s.params 0 f) (hclk : s.params.clockFits clk = true) :
    exec (.snapload 0 .pctx ((hostBlock major minor clk f).bytes s.params.clkW.bytes)) s =
      .next ({ s with authClk := clk, res := 0 }.updAgent 0
        (fun a => { a with history := .wasLoaded f :: a.history })) := by
  have hfits : (hostBlock major minor clk f).Fits s.params 0 := hostBlock_fits hf hclk
  have hclk64 : BitVec.ofNat 64 (hostBlock major minor clk f).localClk = clk := by
    rw [hostBlock, BitVec.ofNat_toNat, BitVec.setWidth_eq]
  rw [exec_snapload_pctx hlive hq hfits hver, loadPctx, PctxBlock.ofBytes_bytes hfits, if_pos rfl, hclk64]
  rfl

/-- A drive's block loaded writes its six registers and tells its agent. -/
theorem exec_snapload_drive {r : Drive} (hlive : s.err.getLsbD 0 = false) (hq : s.params.isPart q = true) (hq0 : q ≠ 0)
    (hver : major = 0 ∨ (major = 1 ∧ minor = 0)) (hf : FieldsFit s.params q f) (hr : r.ClocksFit s.params) :
    exec (.snapload q .pctx ((driveBlock major minor r f).bytes s.params.clkW.bytes)) s =
      .next (({ s with res := 0 }.updDrive q r.restored).updAgent q
        (fun a => { a with history := .wasLoaded f :: a.history })) := by
  have hfits : (driveBlock major minor r f).Fits s.params q := driveBlock_fits hq0 hf hr
  have hjam : ∀ jam : Bool, (if jam then 1 else 0 : Byte).getLsbD 0 = jam := by decide
  rw [exec_snapload_pctx hlive hq hfits hver, loadPctx, PctxBlock.ofBytes_bytes hfits, if_neg hq0]
  simp only [driveBlock, BitVec.ofNat_toNat, BitVec.setWidth_eq, hjam]
  rfl

end Load

/-- Settles O59: a block of a good shape is applied as it was cut, and what SNAPSAVE wrote is the block of the slot as it is after
the save, whose clocks fit. -/
theorem processorContextRoundTrips : Obligations.ProcessorContextRoundTrips := by
  refine ⟨?_, ?_⟩
  · intro s q major minor f clk stop sync frac jamAddr jam hlive hq hver hregs hlast hints hram hclk hstop hsync le told
    have hf : FieldsFit s.params q f := ⟨hregs, hlast, hints, hram⟩
    refine ⟨?_, fun hq0 => ?_⟩
    · rintro rfl
      rw [← hostBlock_bytes]
      exact exec_snapload_host hlive hq hver hf hclk
    · exact exec_snapload_drive (r := { Drive.reset with
        localClk := clk, frac := frac, stopClk := stop, lastSync := sync, jam := jam, jamAddr := jamAddr })
        hlive hq hq0 hver hf ⟨hclk, hstop, hsync⟩
  · intro s t u q now hclocks hlive hq hsave hparams hlive'
    have hkept := exec_stepKept _ hsave
    have hP : u.params = t.params := hparams.trans hkept.params.symm
    have hqu : u.params.isPart q = true := hparams ▸ hq
    obtain ⟨hauth, _, hdrives⟩ := t.clocksFit_iff.mp (hkept.clocks hclocks)
    have hf : FieldsFit u.params q (t.cpuSave q) := hP ▸ t.cpuSave_fits q
    rw [snapsave_sdat hlive hq hsave, State.blockBytes, ← hP]
    rw [← hP] at hauth hdrives
    by_cases hq0 : q = 0
    · subst hq0
      refine ⟨_, exec_snapload_host hlive' hqu (.inr ⟨rfl, rfl⟩) hf hauth, rfl, fun x => ?_, fun x => ?_⟩
      · rw [if_neg fun h => h.2 rfl]
        rfl
      · exact State.updAgent_agent ..
    · rw [State.pctxBlock_drive t hq0]
      refine ⟨_, exec_snapload_drive hlive' hqu hq0 (.inr ⟨rfl, rfl⟩) hf (hdrives q), ?_, fun x => ?_, fun x => ?_⟩
      · rw [if_neg hq0]
        rfl
      · refine (State.updDrive_drive ..).trans ?_
        by_cases hx : x = q
        · subst hx
          rw [if_pos rfl, if_pos ⟨rfl, hq0⟩]
          rfl
        · rw [if_neg hx, if_neg fun h => hx h.1]
          rfl
      · exact State.updAgent_agent ..

end Sys2Proof.Machine

/-! The fatal state (spec/60_exceptions.md R297). -/

namespace Sys2Proof.Machine

/-- In the fatal state a command other than MRESET is ignored: it is an effect that only a live block takes. -/
theorem exec_fatal {i : Instr} {s : State} (hi : i ≠ .mreset) (hfatal : s.fatal = true) : exec i s = .next s := by
  obtain ⟨effect, heq⟩ := exec_eq_command i hi
  exact (heq s).trans (command_fatal hfatal effect)

/-- MRESET leaves the fatal state: it is taken whatever the state, and no bit of `err` outlives it. -/
theorem State.machineReset_fatal (s : State) : s.machineReset.fatal = false := by
  rw [State.fatal, State.machineReset_err]
  rfl

/-- Settles O7: every other command is guarded by the fatal flag, and the machine reset clears it. -/
theorem fatalStateIgnoresAllButReset : Obligations.FatalStateIgnoresAllButReset := fun s hfatal =>
  ⟨fun _ hi => exec_fatal hi hfatal, s.machineReset, rfl, s.machineReset_fatal⟩

end Sys2Proof.Machine

/-! Power-on and machine reset values (spec/70_reset_and_hazards.md R331). -/

namespace Sys2Proof.Machine

/-- The block starts as a register reset leaves it: that reset, with nobody told, writes nothing new (10_state.md R44). -/
theorem State.registersReset_reset : State.reset.registersReset = State.reset := rfl

/-- The state in which the block starts has every register at its power-on value. -/
theorem State.reset_powerOn : PowerOn State.reset := by
  rw [← State.registersReset_reset]
  exact State.reset.registersReset_powerOn State.reset.agents

/-- Settles O51: the block starts as a register reset leaves it, and MRESET makes one, whatever it tells the agents. -/
theorem powerOnValues : Obligations.PowerOnValues := by
  refine ⟨State.reset_powerOn, fun s => ?_⟩
  obtain ⟨t, hexec, hpowerOn, -⟩ := mresetTellsEveryAgent s
  exact ⟨t, hexec, hpowerOn⟩

end Sys2Proof.Machine
